-- ==== Sys2Proof/Word.lean ====
section
/-! DEFINITION. The word types of the block, one name per width the spec gives a field (R7, R10: every value is an
unsigned integer of the width stated). -/

namespace Sys2Proof

/-- A command word or a register value (R7 `CMD_W`, R19). -/
abbrev Word := BitVec 32

/-- A symbol, one byte (R7 `SYM_W`, R8). -/
abbrev Symbol := BitVec 8

/-- A node address (R7 `NODE_AW`). -/
abbrev NodeAddr := BitVec 9

/-- A bit or symbol count (R7 `CNT_W`). -/
abbrev Count := BitVec 28

/-- The bits of a code: path bit `i` is bit `i` (R50, R88). -/
abbrev CodeBits := BitVec 255

/-- The code staging register (R7 `STAGE_W`, R52). -/
abbrev Stage := BitVec 256

end Sys2Proof
end

