-- ==== Sys2Proof/Syntax.lean ====
section
/-! DEFINITION. The command set: one constructor per row of the opcode map (R70), its operands at their encoded widths
(R69), in the operand order of R75. Operands are immediates; no command names a register (R22). -/

namespace Sys2Proof

/-- A command of the block (R70). -/
inductive Instr where
  /-- NOP (R111). -/
  | nop
  /-- WR_LEAF a, sym (R79). -/
  | wrLeaf (a : NodeAddr) (sym : Symbol)
  /-- WR_INTERNAL a, l, r (R80). -/
  | wrInternal (a l r : NodeAddr)
  /-- CLR_NODE a (R81). -/
  | clrNode (a : NodeAddr)
  /-- CLR_TREE (R82). -/
  | clrTree
  /-- SET_ROOT a (R83). -/
  | setRoot (a : NodeAddr)
  /-- CODE_STAGE k, data (R89). -/
  | codeStage (k : BitVec 4) (data : BitVec 16)
  /-- WR_CODE sym, len (R90). -/
  | wrCode (sym : Symbol) (len : BitVec 8)
  /-- CLR_CODE sym (R91). -/
  | clrCode (sym : Symbol)
  /-- CLR_CODES (R92). -/
  | clrCodes
  /-- ENC_START (R99). -/
  | encStart
  /-- ENC_SYM sym (R100). -/
  | encSym (sym : Symbol)
  /-- ENC_END (R101). -/
  | encEnd
  /-- DEC_START n (R104). -/
  | decStart (n : Count)
  /-- DEC_BITS of `k + 1` bits, `data[0]` first (R105). -/
  | decBits (k : BitVec 4) (data : BitVec 16)
  /-- SET_CTRL arg (R112). -/
  | setCtrl (arg : BitVec 16)
  /-- CLR_STATUS mask (R113). -/
  | clrStatus (arg : BitVec 16)
  /-- ABORT mask (R114). -/
  | abort (arg : BitVec 16)
  deriving DecidableEq, Repr

end Sys2Proof
end

