-- ==== Sys2Proof/WellFormed.lean ====
section
/-! DEFINITION. Which commands a legal word can stand for: the extra conditions of the opcode map (R70) and the bits of
ARG that R72 reserves. Every other operand is in range by its width (R59). -/

namespace Sys2Proof

/-- The conditions of R70 and R72 on a command's operands. -/
def Instr.wellFormed : Instr → Bool
  | .nop => true
  | .wrLeaf _ _ => true
  | .wrInternal _ _ _ => true
  | .clrNode _ => true
  | .clrTree => true
  | .setRoot _ => true
  | .codeStage _ _ => true
  -- `LEN` = 0 is illegal
  | .wrCode _ len => len != 0#8
  | .clrCode _ => true
  | .clrCodes => true
  | .encStart => true
  | .encSym _ => true
  | .encEnd => true
  | .decStart _ => true
  -- `DATA >> (K+1)` = 0
  | .decBits k data => data >>> (k.toNat + 1) == 0#16
  -- `ARG[15:2]` = 0
  | .setCtrl arg => arg.extractLsb' 2 14 == 0#14
  -- `ARG[3:0]` = 0 and `ARG[15:9]` = 0
  | .clrStatus arg => arg.extractLsb' 0 4 == 0#4 && arg.extractLsb' 9 7 == 0#7
  -- `ARG[15:2]` = 0
  | .abort arg => arg.extractLsb' 2 14 == 0#14

end Sys2Proof
end

