-- ==== Sys2Proof/Decode.lean ====
section
/-! DEFINITION. Decoding a command word (30_encoding.md R67 to R74), encoding a command, and the opcode map of R70 as a
table with the legality check of R71. The decoder reads `OP`, then the fields of the format `OP` selects (R68); a word it
does not take is refused with the reason R72 gives. No state takes part in decoding (R74). -/

namespace Sys2Proof

/-- Why a word is illegal (R72). The block reports every one of these as cause ILLEGAL. -/
inductive Illegal where
  /-- A reserved bit of the format is 1. -/
  | reservedBit
  /-- `OP` = 0xF with `SUB` in 3..15. -/
  | unknownSub
  /-- WR_CODE with `LEN` = 0. -/
  | zeroLength
  /-- DEC_BITS with a 1 in `DATA` above bit `n-1`. -/
  | dataAboveCount
  /-- SET_CTRL, CLR_STATUS or ABORT with a bit of `ARG` outside its operand. -/
  | argBits
  deriving DecidableEq, Repr

/-! ### Fields (R69) -/

/-- `OP` = cmd[31:28]. -/
def opField (w : Word) : BitVec 4 := w.extractLsb' 28 4
/-- `K` = cmd[27:24]; the same bits are `SUB` in format Y. -/
def kField (w : Word) : BitVec 4 := w.extractLsb' 24 4
/-- `A` = cmd[26:18]. -/
def aField (w : Word) : NodeAddr := w.extractLsb' 18 9
/-- `L` = cmd[17:9]. -/
def lField (w : Word) : NodeAddr := w.extractLsb' 9 9
/-- `R` = cmd[8:0]. -/
def rField (w : Word) : NodeAddr := w.extractLsb' 0 9
/-- `SYM` = cmd[7:0]. -/
def symField (w : Word) : Symbol := w.extractLsb' 0 8
/-- `LEN` = cmd[15:8]. -/
def lenField (w : Word) : BitVec 8 := w.extractLsb' 8 8
/-- `DATA` = cmd[15:0]; the same bits are `ARG` in format Y. -/
def dataField (w : Word) : BitVec 16 := w.extractLsb' 0 16
/-- `N` = cmd[27:0]. -/
def nField (w : Word) : Count := w.extractLsb' 0 28

/-- The instruction if the reserved bits are 0, else the refusal R72 gives. -/
def unlessReserved (reservedZero : Bool) (i : Instr) : Except Illegal Instr :=
  if reservedZero then .ok i else .error .reservedBit

/-! ### One decoder per format (R68) -/

/-- Format Z: bits [27:0] are reserved. -/
def decodeZ (w : Word) (i : Instr) : Except Illegal Instr :=
  unlessReserved (nField w == 0#28) i

/-- Format T, WR_LEAF: bit 27 and bits [17:8] are reserved. -/
def decodeLeaf (w : Word) : Except Illegal Instr :=
  unlessReserved (w.extractLsb' 27 1 == 0#1 && w.extractLsb' 8 10 == 0#10) (.wrLeaf (aField w) (symField w))

/-- Format T, WR_INTERNAL: bit 27 is reserved. -/
def decodeInternal (w : Word) : Except Illegal Instr :=
  unlessReserved (w.extractLsb' 27 1 == 0#1) (.wrInternal (aField w) (lField w) (rField w))

/-- Format T, CLR_NODE and SET_ROOT: bit 27 and bits [17:0] are reserved. -/
def decodeT (w : Word) (i : NodeAddr → Instr) : Except Illegal Instr :=
  unlessReserved (w.extractLsb' 27 1 == 0#1 && w.extractLsb' 0 18 == 0#18) (i (aField w))

/-- Format S with `LEN`: WR_CODE. Bits [27:16] are reserved. -/
def decodeWrCode (w : Word) : Except Illegal Instr :=
  if w.extractLsb' 16 12 == 0#12 then
    if lenField w == 0#8 then .error .zeroLength else .ok (.wrCode (symField w) (lenField w))
  else .error .reservedBit

/-- Format S without `LEN`: bits [27:8] are reserved. -/
def decodeS (w : Word) (i : Symbol → Instr) : Except Illegal Instr :=
  unlessReserved (w.extractLsb' 8 20 == 0#20) (i (symField w))

/-- Format D, CODE_STAGE: bits [23:16] are reserved. -/
def decodeStage (w : Word) : Except Illegal Instr :=
  unlessReserved (w.extractLsb' 16 8 == 0#8) (.codeStage (kField w) (dataField w))

/-- Format D, DEC_BITS: bits [23:16] are reserved, and `DATA >> (K+1)` must be 0. -/
def decodeBits (w : Word) : Except Illegal Instr :=
  if w.extractLsb' 16 8 == 0#8 then
    if dataField w >>> ((kField w).toNat + 1) == 0#16 then .ok (.decBits (kField w) (dataField w))
    else .error .dataAboveCount
  else .error .reservedBit

/-- Format Y: `SUB` selects the command; bits [23:16] and the bits of `ARG` outside the operand are reserved. -/
def decodeY (w : Word) : Except Illegal Instr :=
  if kField w = 0x0#4 then
    if w.extractLsb' 16 8 == 0#8 then
      if w.extractLsb' 2 14 == 0#14 then .ok (.setCtrl (dataField w)) else .error .argBits
    else .error .reservedBit
  else if kField w = 0x1#4 then
    if w.extractLsb' 16 8 == 0#8 then
      if w.extractLsb' 0 4 == 0#4 && w.extractLsb' 9 7 == 0#7 then .ok (.clrStatus (dataField w)) else .error .argBits
    else .error .reservedBit
  else if kField w = 0x2#4 then
    if w.extractLsb' 16 8 == 0#8 then
      if w.extractLsb' 2 14 == 0#14 then .ok (.abort (dataField w)) else .error .argBits
    else .error .reservedBit
  else .error .unknownSub

/-- The command a word stands for, or why it stands for none (R70, R72). -/
def decode (w : Word) : Except Illegal Instr :=
  if opField w = 0x0#4 then decodeZ w .nop
  else if opField w = 0x1#4 then decodeLeaf w
  else if opField w = 0x2#4 then decodeInternal w
  else if opField w = 0x3#4 then decodeT w .clrNode
  else if opField w = 0x4#4 then decodeZ w .clrTree
  else if opField w = 0x5#4 then decodeT w .setRoot
  else if opField w = 0x6#4 then decodeStage w
  else if opField w = 0x7#4 then decodeWrCode w
  else if opField w = 0x8#4 then decodeS w .clrCode
  else if opField w = 0x9#4 then decodeZ w .clrCodes
  else if opField w = 0xA#4 then decodeZ w .encStart
  else if opField w = 0xB#4 then decodeS w .encSym
  else if opField w = 0xC#4 then decodeZ w .encEnd
  else if opField w = 0xD#4 then .ok (.decStart (nField w))
  else if opField w = 0xE#4 then decodeBits w
  else decodeY w

/-- A field as the bits of a word from position `p` up, every other bit 0. -/
def put {n : Nat} (p : Nat) (v : BitVec n) : Word := v.setWidth 32 <<< p

/-- The word of a command: its fields at the positions R68 gives them, every reserved bit 0. -/
def encode : Instr → Word
  | .nop => put 28 0x0#4
  | .wrLeaf a sym => put 28 0x1#4 ||| put 18 a ||| put 0 sym
  | .wrInternal a l r => put 28 0x2#4 ||| put 18 a ||| put 9 l ||| put 0 r
  | .clrNode a => put 28 0x3#4 ||| put 18 a
  | .clrTree => put 28 0x4#4
  | .setRoot a => put 28 0x5#4 ||| put 18 a
  | .codeStage k data => put 28 0x6#4 ||| put 24 k ||| put 0 data
  | .wrCode sym len => put 28 0x7#4 ||| put 8 len ||| put 0 sym
  | .clrCode sym => put 28 0x8#4 ||| put 0 sym
  | .clrCodes => put 28 0x9#4
  | .encStart => put 28 0xA#4
  | .encSym sym => put 28 0xB#4 ||| put 0 sym
  | .encEnd => put 28 0xC#4
  | .decStart n => put 28 0xD#4 ||| put 0 n
  | .decBits k data => put 28 0xE#4 ||| put 24 k ||| put 0 data
  | .setCtrl arg => put 28 0xF#4 ||| put 24 0x0#4 ||| put 0 arg
  | .clrStatus arg => put 28 0xF#4 ||| put 24 0x1#4 ||| put 0 arg
  | .abort arg => put 28 0xF#4 ||| put 24 0x2#4 ||| put 0 arg

/-- The mnemonic of a command, as R70 spells it. -/
def Instr.mnemonic : Instr → String
  | .nop => "NOP"
  | .wrLeaf _ _ => "WR_LEAF"
  | .wrInternal _ _ _ => "WR_INTERNAL"
  | .clrNode _ => "CLR_NODE"
  | .clrTree => "CLR_TREE"
  | .setRoot _ => "SET_ROOT"
  | .codeStage _ _ => "CODE_STAGE"
  | .wrCode _ _ => "WR_CODE"
  | .clrCode _ => "CLR_CODE"
  | .clrCodes => "CLR_CODES"
  | .encStart => "ENC_START"
  | .encSym _ => "ENC_SYM"
  | .encEnd => "ENC_END"
  | .decStart _ => "DEC_START"
  | .decBits _ _ => "DEC_BITS"
  | .setCtrl _ => "SET_CTRL"
  | .clrStatus _ => "CLR_STATUS"
  | .abort _ => "ABORT"

/-! ### The opcode map as a table (R70) and the legality check (R71) -/

/-- The extra condition of a row of R70. -/
inductive ExtraCondition where
  /-- No extra condition. -/
  | none
  /-- `LEN` != 0. -/
  | lenNonzero
  /-- `DATA >> (K+1)` = 0. -/
  | dataFits
  deriving DecidableEq, Repr

/-- A row of the opcode map: a word is the row's when `(cmd & mask) = pattern` and the extra condition holds. -/
structure OpRow where
  mnemonic : String
  pattern : Word
  mask : Word
  extra : ExtraCondition := .none
  deriving DecidableEq, Repr

/-- The complete map (R70). -/
def opmap : List OpRow := [
  { mnemonic := "NOP",         pattern := 0x00000000#32, mask := 0xFFFFFFFF#32 },
  { mnemonic := "WR_LEAF",     pattern := 0x10000000#32, mask := 0xF803FF00#32 },
  { mnemonic := "WR_INTERNAL", pattern := 0x20000000#32, mask := 0xF8000000#32 },
  { mnemonic := "CLR_NODE",    pattern := 0x30000000#32, mask := 0xF803FFFF#32 },
  { mnemonic := "CLR_TREE",    pattern := 0x40000000#32, mask := 0xFFFFFFFF#32 },
  { mnemonic := "SET_ROOT",    pattern := 0x50000000#32, mask := 0xF803FFFF#32 },
  { mnemonic := "CODE_STAGE",  pattern := 0x60000000#32, mask := 0xF0FF0000#32 },
  { mnemonic := "WR_CODE",     pattern := 0x70000000#32, mask := 0xFFFF0000#32, extra := .lenNonzero },
  { mnemonic := "CLR_CODE",    pattern := 0x80000000#32, mask := 0xFFFFFF00#32 },
  { mnemonic := "CLR_CODES",   pattern := 0x90000000#32, mask := 0xFFFFFFFF#32 },
  { mnemonic := "ENC_START",   pattern := 0xA0000000#32, mask := 0xFFFFFFFF#32 },
  { mnemonic := "ENC_SYM",     pattern := 0xB0000000#32, mask := 0xFFFFFF00#32 },
  { mnemonic := "ENC_END",     pattern := 0xC0000000#32, mask := 0xFFFFFFFF#32 },
  { mnemonic := "DEC_START",   pattern := 0xD0000000#32, mask := 0xF0000000#32 },
  { mnemonic := "DEC_BITS",    pattern := 0xE0000000#32, mask := 0xF0FF0000#32, extra := .dataFits },
  { mnemonic := "SET_CTRL",    pattern := 0xF0000000#32, mask := 0xFFFFFFFC#32 },
  { mnemonic := "CLR_STATUS",  pattern := 0xF1000000#32, mask := 0xFFFFFE0F#32 },
  { mnemonic := "ABORT",       pattern := 0xF2000000#32, mask := 0xFFFFFFFC#32 } ]

/-- The extra condition of a row, on a word (R70, R71). -/
def ExtraCondition.holds (e : ExtraCondition) (w : Word) : Bool :=
  match e with
  | .none => true
  | .lenNonzero => lenField w != 0#8
  | .dataFits => dataField w >>> ((kField w).toNat + 1) == 0#16

/-- Whether the row's mask and pattern match the word. -/
def OpRow.hits (r : OpRow) (w : Word) : Bool := w &&& r.mask == r.pattern

/-- `legal(cmd)` of R71. -/
def legal (w : Word) : Bool := opmap.any fun r => r.hits w && r.extra.holds w

/-! ### The host's view of the decoder -/

/-- The word of an instruction given as the opcode table numbers its bits: every command is one 32-bit word, moved whole
(R58, R67), so no byte order takes part. The bits above `nbits` are 0. -/
def tableWord (nbits w : Nat) : Word := BitVec.ofNat 32 (w % 2 ^ nbits)

/-- What the decoder reads from the word `w` of `nbits` bits; none where the word is illegal. -/
def decodeTableWord (nbits w : Nat) : Option Instr :=
  match decode (tableWord nbits w) with
  | .ok i => some i
  | .error _ => none

end Sys2Proof
end

