-- ==== Sys2Proof/Config.lean ====
section
/-! DEFINITION. What is fixed for a block: the constants of R7 and R29, the two parameters the spec leaves open (R9),
and the one value it leaves to a draw (R140). A constant with no body is open: nothing can be proved of its value. -/

namespace Sys2Proof.Config

/-- `NODE_DEPTH`, the entries of the node memory (R7). -/
def nodeDepth : Nat := 512

/-- `NSYM`, the entries of the code table (R7). -/
def nsym : Nat := 256

/-- `CNT_MAX` = 2^28 - 1 (R7). -/
def cntMax : Nat := 268435455

/-- The `ID` register's constant (R29, D21). -/
def idValue : Word := 0x48554601#32

/-- The open part of `DOUT_DEPTH` (log 4). -/
opaque doutDepthOpen : Nat

/-- The open part of `EOUT_DEPTH` (log 4). -/
opaque eoutDepthOpen : Nat

/-- `DOUT_DEPTH`: any value of 17..65535 (R9, R44, D23; log 4). -/
def doutDepth : Nat := doutDepthOpen % 65519 + 17

/-- `EOUT_DEPTH`: any value of 1..65535 (R9, R44, D23; log 4). -/
def eoutDepth : Nat := eoutDepthOpen % 65535 + 1

/-- What the `k`-th register read in a BUSY window returns where R140 leaves it to an unconstrained draw (U8; log 9). -/
opaque busyRead : Nat → Word

end Sys2Proof.Config
end

