-- ==== Sys2Proof/Machine/State.lean ====
section
/-! DEFINITION. The state of the block (R24), of its surroundings, and the state after reset (R136). Plain data. -/

namespace Sys2Proof.Machine

/-- The code space of R117. Codes 5, 6 and 11 to 15 are never produced and have no name (U15). -/
inductive Status where
  /-- 0, a session that ended well. -/
  | ok
  /-- 1, a bit on an EMPTY root or selecting an EMPTY child. -/
  | invalidCode
  /-- 2, bits exhausted while mid-traversal. -/
  | truncatedStream
  /-- 3, a symbol with no code. -/
  | missingSymbol
  /-- 4, the session's bit total would pass `CNT_MAX`. -/
  | bitcountOverflow
  /-- 7, the session was cancelled by ABORT. -/
  | aborted
  /-- 8, the word is illegal. -/
  | illegal
  /-- 9, the command is not allowed in the current session state. -/
  | sequence
  /-- 10, DEC_BITS with more bits than the session still expects. -/
  | overrun
  deriving DecidableEq, Repr

/-- A session state (R98, R103). The value 3 of the two-bit field is never reached (U16). -/
inductive Session where
  /-- 0: no session is open. -/
  | idle
  /-- 1: a session is open and has had no data error. -/
  | active
  /-- 2: a session is open and discards its remaining input after a data error. -/
  | faulted
  deriving DecidableEq, Repr

/-- An entry of the node memory (R46). The payload a tag does not use is left out (R48; log 5). -/
inductive Node where
  /-- No node. -/
  | empty
  /-- A Leaf holding a symbol. -/
  | leaf (sym : Symbol)
  /-- An Internal node with its two children's addresses. -/
  | internal (left right : NodeAddr)
  deriving DecidableEq, Repr

/-- An entry of the code table (R50). The `len` and `bits` of an entry with `valid` = 0 are left out (U7; log 5). -/
inductive CodeEntry where
  /-- `valid` = 0. -/
  | invalid
  /-- `valid` = 1: the code's length and bits, the first path bit in bit 0. -/
  | code (len : BitVec 8) (bits : CodeBits)
  deriving DecidableEq, Repr

/-- A token of the decoder output FIFO (R12). -/
inductive DToken where
  /-- `SYM(s)`. -/
  | sym (s : Symbol)
  /-- `END(status, count)`. -/
  | done (status : Status) (count : Count)
  deriving DecidableEq, Repr

/-- A token of the encoder output FIFO (R12). -/
inductive EToken where
  /-- `CW(len, bits)`. -/
  | cw (len : BitVec 8) (bits : CodeBits)
  /-- `END(status, count)`. -/
  | done (status : Status) (count : Count)
  deriving DecidableEq, Repr

/-- Whose turn it is: the agents of R17, and the reset event of R136 (log 1). -/
inductive Turn where
  /-- The block takes the offered command, if it accepts it (R18). -/
  | executor
  /-- The host has a further word to offer, after those it already offers (R17). -/
  | host (word : Word)
  /-- The consumer of `DOUT` pops one token, if there is one (R55). -/
  | doutConsumer
  /-- The consumer of `EOUT` pops one token, if there is one (R55). -/
  | eoutConsumer
  /-- `rst` is 1 at one clock edge (R136). -/
  | reset
  deriving DecidableEq, Repr

/-- A memory of whole entries: (index, entry) pairs, in the canonical form `Memory.wf` of Machine/Ops.lean (log 6). -/
abbrev Memory (α : Type) := List (Nat × α)

/-- The state of the block, field by field as R24 lists it, then the build's two open parameters (R9), then what stands
around the block: the words offered on its command port and the turns to come. -/
structure State where
  /-- `NODE[0..511]`; an index that is not listed is EMPTY. -/
  nodes : Memory Node
  /-- `CODE[0..255]`; an index that is not listed is not valid. -/
  codes : Memory CodeEntry
  /-- `stage`, the code staging register. -/
  stage : Stage
  /-- `root`, the root node address. -/
  root : NodeAddr
  /-- `dstate`, the decoder session state. -/
  dstate : Session
  /-- `remain`, bits still to consume in the decode session. -/
  remain : Count
  /-- `consumed`, bits consumed in the decode session. -/
  consumed : Count
  /-- `cur`, the cursor. -/
  cur : NodeAddr
  /-- `mid`, mid-traversal. -/
  mid : Bool
  /-- `symcount`, symbols emitted in the decode session. -/
  symcount : Count
  /-- `estate`, the encoder session state. -/
  estate : Session
  /-- `ebits`, code bits emitted in the encode session. -/
  ebits : Count
  /-- `cmd_err`, sticky. -/
  cmdErr : Bool
  /-- `dec_err`, sticky. -/
  decErr : Bool
  /-- `enc_err`, sticky. -/
  encErr : Bool
  /-- `dec_done`, sticky. -/
  decDone : Bool
  /-- `enc_done`, sticky. -/
  encDone : Bool
  /-- `ie_done`, interrupt enable of the done bits. -/
  ieDone : Bool
  /-- `ie_err`, interrupt enable of the error bits. -/
  ieErr : Bool
  /-- `ce_cause`, cause of the first rejected command. -/
  ceCause : BitVec 4
  /-- `ce_word`, word of the first rejected command. -/
  ceWord : Word
  /-- `de_info`, details of the first decode data error. -/
  deInfo : BitVec 24
  /-- `de_bit`, bit index of the first decode data error. -/
  deBit : Count
  /-- `ee_info`, details of the first encode data error. -/
  eeInfo : BitVec 12
  /-- `DOUT`, the oldest token first. -/
  dout : List DToken
  /-- `EOUT`, the oldest token first. -/
  eout : List EToken
  /-- `DOUT_DEPTH`, fixed for a build: no step changes it (log 4). -/
  doutDepth : Nat
  /-- `EOUT_DEPTH`, fixed for a build: no step changes it (log 4). -/
  eoutDepth : Nat
  /-- The words the host offers, in order; the first is on `cmd_data` (log 3). -/
  port : List Word
  /-- The turns to come; with none left, the executor moves (log 1). -/
  turns : List Turn
  deriving DecidableEq, Repr

/-- A fault would stop the block. No error stops it (R128): every error the spec names is a next state, so there is no
fault to name. -/
inductive Fault where
  deriving DecidableEq, Repr

/-- Why an instruction would have no meaning. -/
inductive Refusal where
  /-- Raised by an arm of `exec` for an instruction with no meaning yet; no arm raises it now. Safe. -/
  | notModelled (mnemonic : String)
  deriving DecidableEq, Repr

/-- The machine right after reset: every field of R24 at the value R24 and R136 give. The depths are the open constants
of Config (log 4); no word is offered and no turn is listed (log 1, log 3). -/
def State.reset : State where
  nodes := []
  codes := []
  stage := 0#256
  root := 0#9
  dstate := .idle
  remain := 0#28
  consumed := 0#28
  cur := 0#9
  mid := false
  symcount := 0#28
  estate := .idle
  ebits := 0#28
  cmdErr := false
  decErr := false
  encErr := false
  decDone := false
  encDone := false
  ieDone := false
  ieErr := false
  ceCause := 0#4
  ceWord := 0#32
  deInfo := 0#24
  deBit := 0#28
  eeInfo := 0#12
  dout := []
  eout := []
  doutDepth := Config.doutDepth
  eoutDepth := Config.eoutDepth
  port := []
  turns := []

end Sys2Proof.Machine
end

