-- ==== Sys2Proof/Machine/Ops.lean ====
section
/-! DEFINITION. The operations every meaning is written over: the two memories, the output FIFOs, raising and clearing an
error, the session flags, and reset. -/

namespace Sys2Proof.Machine

/-! ### Memories of whole entries (R46, R50, R59, R60; log 6)

`unlisted` is what an index with no pair reads as: EMPTY in the node memory, not valid in the code table, which is what
reset leaves in every entry (R24). -/

/-- The entry at an index. -/
def Memory.read {α : Type} (unlisted : α) (m : Memory α) (k : Nat) : α :=
  match m with
  | [] => unlisted
  | e :: m' => if e.1 = k then e.2 else Memory.read unlisted m' k

/-- The memory with the entry at an index replaced: the pairs below it, the new entry unless it is what an unlisted index
reads as, the pairs above it. -/
def Memory.write {α : Type} [DecidableEq α] (unlisted : α) (m : Memory α) (k : Nat) (v : α) : Memory α :=
  m.filter (fun e => e.1 < k) ++ (if v = unlisted then [] else [(k, v)]) ++ m.filter (fun e => k < e.1)

/-- Every pair's index is below `size` and above `from`, indices rise, and no pair holds the unlisted entry. -/
def Memory.wfFrom {α : Type} [DecidableEq α] (unlisted : α) (size : Nat) (low : Nat) (m : Memory α) : Bool :=
  match m with
  | [] => true
  | e :: m' => decide (low ≤ e.1) && decide (e.1 < size) && decide (e.2 ≠ unlisted) &&
      Memory.wfFrom unlisted size (e.1 + 1) m'

/-- The canonical form (log 6). -/
def Memory.wf {α : Type} [DecidableEq α] (unlisted : α) (size : Nat) (m : Memory α) : Bool :=
  Memory.wfFrom unlisted size 0 m

/-- `NODE[a]` (R11, R46). -/
def nodeAt (s : State) (a : NodeAddr) : Node := Memory.read .empty s.nodes a.toNat

/-- `NODE[a] <- n` (R11, R46). -/
def writeNode (s : State) (a : NodeAddr) (n : Node) : State :=
  { s with nodes := Memory.write .empty s.nodes a.toNat n }

/-- `for a in 0..511: NODE[a] <- EMPTY` (R82). -/
def clearNodes (s : State) : State := { s with nodes := [] }

/-- `CODE[sym]` (R11, R50). -/
def codeAt (s : State) (sym : Symbol) : CodeEntry := Memory.read .invalid s.codes sym.toNat

/-- `CODE[sym] <- e` (R11, R50). -/
def writeCode (s : State) (sym : Symbol) (e : CodeEntry) : State :=
  { s with codes := Memory.write .invalid s.codes sym.toNat e }

/-- `for s in 0..255: CODE[s].valid <- 0` (R92). -/
def clearCodes (s : State) : State := { s with codes := [] }

/-! ### Output FIFOs (R53 to R55)

Whether a FIFO has room is settled before a command runs (R57), so a push never finds it full (R54; log 12). -/

/-- `free(DOUT)` (R53). -/
def freeDout (s : State) : Nat := s.doutDepth - s.dout.length

/-- `free(EOUT)` (R53). -/
def freeEout (s : State) : Nat := s.eoutDepth - s.eout.length

/-- `push_dout(t)` (R54). -/
def pushDout (t : DToken) (s : State) : State := { s with dout := s.dout ++ [t] }

/-- `push_eout(t)` (R54). -/
def pushEout (t : EToken) (s : State) : State := { s with eout := s.eout ++ [t] }

/-- A pop of `DOUT` (R55); with no token there is no step (log 2). -/
def popDout (s : State) : State := { s with dout := s.dout.tail }

/-- A pop of `EOUT` (R55); with no token there is no step (log 2). -/
def popEout (s : State) : State := { s with eout := s.eout.tail }

/-- `push_dout(END(status, S.symcount))` with `S.dec_done <- 1` (R107, R114, R121). -/
def endDecode (status : Status) (s : State) : State :=
  { pushDout (.done status s.symcount) s with decDone := true }

/-- `push_eout(END(status, S.ebits))` with `S.enc_done <- 1` (R101, R114, R122). -/
def endEncode (status : Status) (s : State) : State :=
  { pushEout (.done status s.ebits) s with encDone := true }

/-! ### Raising an error: what this block has for taking an exception (R128) -/

/-- The 4-bit code of a status (R117). -/
def Status.code : Status → BitVec 4
  | .ok => 0#4
  | .invalidCode => 1#4
  | .truncatedStream => 2#4
  | .missingSymbol => 3#4
  | .bitcountOverflow => 4#4
  | .aborted => 7#4
  | .illegal => 8#4
  | .sequence => 9#4
  | .overrun => 10#4

/-- `raise CommandError(cause)` for the command word `cmd` (R120): the first rejection since `cmd_err` was last 0 is
recorded, and nothing else changes. -/
def commandError (cause : Status) (cmd : Word) (s : State) : State :=
  match s.cmdErr with
  | true => s
  | false => { s with cmdErr := true, ceCause := cause.code, ceWord := cmd }

/-- `zext_24({bit, target, node, has_target, status})` (R121); a missing target has `has_target` = 0 and `target` = 0. -/
def decodeErrorInfo (status : Status) (node : NodeAddr) (target : Option NodeAddr) (bit : Bool) : BitVec 24 :=
  BitVec.ofBool bit ++ target.getD 0#9 ++ node ++ BitVec.ofBool target.isSome ++ status.code

/-- `raise DecodeFault(status, node, has_target, target, bit, index)` (R121). It ends the session's output, not the
command that runs. -/
def decodeFault (status : Status) (node : NodeAddr) (target : Option NodeAddr) (bit : Bool) (index : Count)
    (s : State) : State :=
  let s := endDecode status s
  let s := match s.decErr with
    | true => s
    | false => { s with decErr := true, deInfo := decodeErrorInfo status node target bit, deBit := index }
  { s with dstate := .faulted }

/-- `zext_12({sym, status})` (R122). -/
def encodeErrorInfo (status : Status) (sym : Symbol) : BitVec 12 := sym ++ status.code

/-- `raise EncodeFault(status, sym)` (R122). -/
def encodeFault (status : Status) (sym : Symbol) (s : State) : State :=
  let s := endEncode status s
  let s := match s.encErr with
    | true => s
    | false => { s with encErr := true, eeInfo := encodeErrorInfo status sym }
  { s with estate := .faulted }

/-! ### Clearing an error: the return of R128, done by CLR_STATUS (R113) -/

/-- `S.cmd_err <- 0; S.ce_cause <- 0; S.ce_word <- 0`. -/
def clearCmdErr (s : State) : State := { s with cmdErr := false, ceCause := 0#4, ceWord := 0#32 }

/-- `S.dec_err <- 0; S.de_info <- 0; S.de_bit <- 0`. -/
def clearDecErr (s : State) : State := { s with decErr := false, deInfo := 0#24, deBit := 0#28 }

/-- `S.enc_err <- 0; S.ee_info <- 0`. -/
def clearEncErr (s : State) : State := { s with encErr := false, eeInfo := 0#12 }

/-- `S.dec_done <- 0`. -/
def clearDecDone (s : State) : State := { s with decDone := false }

/-- `S.enc_done <- 0`. -/
def clearEncDone (s : State) : State := { s with encDone := false }

/-- `if ARG[i]: act`. -/
def onBit (b : Bool) (act : State → State) (s : State) : State :=
  match b with
  | true => act s
  | false => s

/-! ### Commands that need a session state (R119) -/

/-- `if S.dstate != IDLE: raise CommandError(SEQUENCE)`, else the rest of the command (R78, R104). -/
def whenDecoderIdle (i : Word) (s : State) (rest : State → State) : State :=
  match s.dstate with
  | .idle => rest s
  | .active => commandError .sequence i s
  | .faulted => commandError .sequence i s

/-- `if S.estate != IDLE: raise CommandError(SEQUENCE)`, else the rest of the command (R87, R99). -/
def whenEncoderIdle (i : Word) (s : State) (rest : State → State) : State :=
  match s.estate with
  | .idle => rest s
  | .active => commandError .sequence i s
  | .faulted => commandError .sequence i s

/-! ### Reset (R136) -/

/-- The reset event: every field of R24 at its reset value. The build's depths stay, and the offered words and the turns
to come are not the block's to change (R136; log 10). -/
def resetBlock (s : State) : State :=
  { State.reset with doutDepth := s.doutDepth, eoutDepth := s.eoutDepth, port := s.port, turns := s.turns }

end Sys2Proof.Machine
end

