-- ==== Sys2Proof/Machine/Operands.lean ====
section
/-! DEFINITION. The operand forms of the commands (R69): the chunk CODE_STAGE writes, the code WR_CODE takes from the
staging register, the bits DEC_BITS delivers, and the acceptance condition, which reads raw fields of the word (R57). -/

namespace Sys2Proof.Machine

/-- `stage[16K+15 : 16K] <- DATA`: `K` is scaled by 16 (R69, R89). -/
def stageChunk (stage : Stage) (k : BitVec 4) (data : BitVec 16) : Stage :=
  (stage &&& ~~~(0xFFFF#256 <<< (16 * k.toNat))) ||| (data.setWidth 256 <<< (16 * k.toNat))

/-- `zext_255(stage[LEN-1 : 0])` (R90). -/
def stagedBits (stage : Stage) (len : BitVec 8) : CodeBits := BitVec.ofNat 255 (stage.toNat % 2 ^ len.toNat)

/-- The bits of a DEC_BITS, `DATA[0]` first and `DATA[n-1]` last, with `n = K + 1` (R58, R69, R105). -/
def deliveredBits (k : BitVec 4) (data : BitVec 16) : List Bool :=
  (List.range (k.toNat + 1)).map fun i => data.getLsbD i

/-- The path of a code: its bits `0 .. len-1` in order (R50, R88). -/
def pathOf (len : BitVec 8) (bits : CodeBits) : List Bool :=
  (List.range len.toNat).map fun i => bits.getLsbD i

/-- Whether the block accepts the word at the head of the port (R57). It reads `OP`, `K`, `ARG[1:0]` and the two FIFO
counts, the same for a legal and an illegal word. -/
def accepts (s : State) (cmd : Word) : Bool :=
  if opField cmd = 0xD#4 then decide (1 ≤ freeDout s)
  else if opField cmd = 0xE#4 then decide ((kField cmd).toNat + 2 ≤ freeDout s)
  else if opField cmd = 0xB#4 then decide (1 ≤ freeEout s)
  else if opField cmd = 0xC#4 then decide (1 ≤ freeEout s)
  else if opField cmd = 0xF#4 then
    if kField cmd = 0x2#4 then
      (!(dataField cmd).getLsbD 0 || decide (1 ≤ freeDout s)) && (!(dataField cmd).getLsbD 1 || decide (1 ≤ freeEout s))
    else true
  else true

end Sys2Proof.Machine
end

