-- ==== Sys2Proof/Machine/CodeTable.lean ====
section
/-! DEFINITION. The code table commands (41_code_table.md R87 to R92). All but CODE_STAGE are rejected with SEQUENCE
unless the encoder is IDLE. -/

namespace Sys2Proof.Machine

/-- CODE_STAGE (R89): one 16-bit chunk of `stage`, in every session state. -/
def execCodeStage (k : BitVec 4) (data : BitVec 16) (s : State) : Host.Outcome State Fault Refusal :=
  .next { s with stage := stageChunk s.stage k data }

/-- WR_CODE (R90): the entry of `SYM` from the low `LEN` bits of `stage`, which stays. -/
def execWrCode (sym : Symbol) (len : BitVec 8) (s : State) : Host.Outcome State Fault Refusal :=
  .next (whenEncoderIdle (encode (.wrCode sym len)) s fun s => writeCode s sym (.code len (stagedBits s.stage len)))

/-- CLR_CODE (R91): `CODE[SYM].valid <- 0`. -/
def execClrCode (sym : Symbol) (s : State) : Host.Outcome State Fault Refusal :=
  .next (whenEncoderIdle (encode (.clrCode sym)) s fun s => writeCode s sym .invalid)

/-- CLR_CODES (R92): every entry's `valid` <- 0. -/
def execClrCodes (s : State) : Host.Outcome State Fault Refusal :=
  .next (whenEncoderIdle (encode .clrCodes) s clearCodes)

end Sys2Proof.Machine
end

