-- ==== Sys2Proof/Machine/Decoder.lean ====
section
/-! DEFINITION. The decoder tree walker (43_decoder.md R103 to R107). -/

namespace Sys2Proof.Machine

/-- A leaf is reached: its symbol goes out, and the cursor goes back to the root (R106). -/
def emitSymbol (sym : Symbol) (s : State) : State :=
  { pushDout (.sym sym) s with symcount := s.symcount + 1#28, cur := s.root, mid := false }

/-- The child a bit selects: 0 is left, 1 is right (R106). -/
def selectChild (b : Bool) (left right : NodeAddr) : NodeAddr :=
  match b with
  | false => left
  | true => right

/-- The cases of `WalkBit` on the cursor's entry, in an ACTIVE session; `i` is the bit's index in the session (R106). On a
LEAF, the degenerate tree, the bit's value is ignored. -/
def walkCursor (b : Bool) (i : Count) (s : State) : State :=
  match nodeAt s s.cur with
  | .empty => decodeFault .invalidCode s.cur none b i s
  | .leaf sym => emitSymbol sym s
  | .internal left right =>
    let t := selectChild b left right
    match nodeAt s t with
    | .empty => decodeFault .invalidCode s.cur (some t) b i s
    | .leaf sym => emitSymbol sym s
    | .internal _ _ => { s with cur := t, mid := true }

/-- `EndOfBits()` (R107). -/
def endOfBits (s : State) : State :=
  let s := match s.dstate with
    | .idle => s
    | .faulted => s
    | .active =>
      match s.mid with
      | true => decodeFault .truncatedStream s.cur none false s.consumed s
      | false => endDecode .ok s
  { s with dstate := .idle }

/-- The bit is counted, in an ACTIVE and in a FAULTED session (R106). -/
def countBit (s : State) : State := { s with consumed := s.consumed + 1#28, remain := s.remain - 1#28 }

/-- `WalkBit(b)` (R106): a FAULTED session counts the bit and discards it. -/
def walkBit (s : State) (b : Bool) : State :=
  let i := s.consumed
  let s := countBit s
  let s := match s.dstate with
    | .idle => s
    | .active => walkCursor b i s
    | .faulted => s
  if s.remain = 0#28 then endOfBits s else s

/-- `WalkBit` for each bit, in order (R105). -/
def walkBits (bits : List Bool) (s : State) : State := bits.foldl walkBit s

/-- DEC_START after its check (R104): the root entry is not examined. -/
def openDecode (n : Count) (s : State) : State :=
  let s := { s with remain := n, consumed := 0#28, cur := s.root, mid := false, symcount := 0#28 }
  if n = 0#28 then { pushDout (.done .ok 0#28) s with decDone := true } else { s with dstate := .active }

/-- DEC_START (R104). -/
def execDecStart (n : Count) (s : State) : Host.Outcome State Fault Refusal :=
  .next (whenDecoderIdle (encode (.decStart n)) s (openDecode n))

/-- DEC_BITS in an open session (R105): more bits than the session expects is OVERRUN, and no bit is consumed. -/
def deliverBits (k : BitVec 4) (data : BitVec 16) (s : State) : State :=
  if k.toNat + 1 > s.remain.toNat then commandError .overrun (encode (.decBits k data)) s
  else walkBits (deliveredBits k data) s

/-- DEC_BITS (R105). -/
def execDecBits (k : BitVec 4) (data : BitVec 16) (s : State) : Host.Outcome State Fault Refusal :=
  match s.dstate with
  | .idle => .next (commandError .sequence (encode (.decBits k data)) s)
  | .active => .next (deliverBits k data s)
  | .faulted => .next (deliverBits k data s)

end Sys2Proof.Machine
end

