-- ==== Sys2Proof/Machine/Encoder.lean ====
section
/-! DEFINITION. The encoder codeword mapper (42_encoder.md R98 to R101). -/

namespace Sys2Proof.Machine

/-- ENC_START (R99). -/
def execEncStart (s : State) : Host.Outcome State Fault Refusal :=
  .next (whenEncoderIdle (encode .encStart) s fun s => { s with estate := .active, ebits := 0#28 })

/-- The lookup of ENC_SYM in an ACTIVE session (R100): MISSING_SYMBOL is checked before BITCOUNT_OVERFLOW (R126). -/
def mapSymbol (sym : Symbol) (s : State) : State :=
  match codeAt s sym with
  | .invalid => encodeFault .missingSymbol sym s
  | .code len bits =>
    if s.ebits.toNat + len.toNat > Config.cntMax then encodeFault .bitcountOverflow sym s
    else { pushEout (.cw len bits) s with ebits := s.ebits + len.setWidth 28 }

/-- ENC_SYM (R100): rejected with no session, discarded in a FAULTED one. -/
def execEncSym (sym : Symbol) (s : State) : Host.Outcome State Fault Refusal :=
  match s.estate with
  | .idle => .next (commandError .sequence (encode (.encSym sym)) s)
  | .active => .next (mapSymbol sym s)
  | .faulted => .next s

/-- ENC_END (R101): a FAULTED session's END is already out. -/
def execEncEnd (s : State) : Host.Outcome State Fault Refusal :=
  match s.estate with
  | .idle => .next (commandError .sequence (encode .encEnd) s)
  | .active => .next { endEncode .ok s with estate := .idle }
  | .faulted => .next { s with estate := .idle }

end Sys2Proof.Machine
end

