-- ==== Sys2Proof/Machine/System.lean ====
section
/-! DEFINITION. The system commands (44_system.md R111 to R114). -/

namespace Sys2Proof.Machine

/-- NOP (R111). -/
def execNop (s : State) : Host.Outcome State Fault Refusal := .next s

/-- SET_CTRL (R112). -/
def execSetCtrl (arg : BitVec 16) (s : State) : Host.Outcome State Fault Refusal :=
  .next { s with ieDone := arg.getLsbD 0, ieErr := arg.getLsbD 1 }

/-- CLR_STATUS (R113): each selected bit and its capture registers are cleared. -/
def execClrStatus (arg : BitVec 16) (s : State) : Host.Outcome State Fault Refusal :=
  .next (onBit (arg.getLsbD 8) clearEncDone (onBit (arg.getLsbD 7) clearDecDone (onBit (arg.getLsbD 6) clearEncErr
    (onBit (arg.getLsbD 5) clearDecErr (onBit (arg.getLsbD 4) clearCmdErr s)))))

/-- ABORT of the decode session (R114): only an ACTIVE one has an END still to push. -/
def abortDecode (s : State) : State :=
  let s := match s.dstate with
    | .idle => s
    | .active => endDecode .aborted s
    | .faulted => s
  { s with dstate := .idle, remain := 0#28 }

/-- ABORT of the encode session (R114). -/
def abortEncode (s : State) : State :=
  let s := match s.estate with
    | .idle => s
    | .active => endEncode .aborted s
    | .faulted => s
  { s with estate := .idle }

/-- ABORT (R114): the decoder first, then the encoder (R126). -/
def execAbort (arg : BitVec 16) (s : State) : Host.Outcome State Fault Refusal :=
  .next (onBit (arg.getLsbD 1) abortEncode (onBit (arg.getLsbD 0) abortDecode s))

end Sys2Proof.Machine
end

