-- ==== Sys2Proof/Machine/Tree.lean ====
section
/-! DEFINITION. The tree commands (40_tree.md R78 to R83). Each is rejected with SEQUENCE unless the decoder is IDLE. -/

namespace Sys2Proof.Machine

/-- WR_LEAF (R79): `NODE[A] <- LEAF(SYM)`. -/
def execWrLeaf (a : NodeAddr) (sym : Symbol) (s : State) : Host.Outcome State Fault Refusal :=
  .next (whenDecoderIdle (encode (.wrLeaf a sym)) s fun s => writeNode s a (.leaf sym))

/-- WR_INTERNAL (R80): `NODE[A] <- INTERNAL(L, R)`; the children are not checked. -/
def execWrInternal (a l r : NodeAddr) (s : State) : Host.Outcome State Fault Refusal :=
  .next (whenDecoderIdle (encode (.wrInternal a l r)) s fun s => writeNode s a (.internal l r))

/-- CLR_NODE (R81): `NODE[A] <- EMPTY`. -/
def execClrNode (a : NodeAddr) (s : State) : Host.Outcome State Fault Refusal :=
  .next (whenDecoderIdle (encode (.clrNode a)) s fun s => writeNode s a .empty)

/-- CLR_TREE (R82): every entry EMPTY; the root register stays. -/
def execClrTree (s : State) : Host.Outcome State Fault Refusal :=
  .next (whenDecoderIdle (encode .clrTree) s clearNodes)

/-- SET_ROOT (R83): `S.root <- A`; the cursor stays. -/
def execSetRoot (a : NodeAddr) (s : State) : Host.Outcome State Fault Refusal :=
  .next (whenDecoderIdle (encode (.setRoot a)) s fun s => { s with root := a })

end Sys2Proof.Machine
end

