-- ==== Sys2Proof/Machine/Dispatch.lean ====
section
/-! DEFINITION. One arm per command: its meaning (R119, the rule of the command's row in R70). -/

namespace Sys2Proof.Machine

def exec (i : Instr) (s : State) : Host.Outcome State Fault Refusal :=
  match i with
  | .nop => Sys2Proof.Machine.execNop s
  | .wrLeaf a sym => Sys2Proof.Machine.execWrLeaf a sym s
  | .wrInternal a l r => Sys2Proof.Machine.execWrInternal a l r s
  | .clrNode a => Sys2Proof.Machine.execClrNode a s
  | .clrTree => Sys2Proof.Machine.execClrTree s
  | .setRoot a => Sys2Proof.Machine.execSetRoot a s
  | .codeStage k data => Sys2Proof.Machine.execCodeStage k data s
  | .wrCode sym len => Sys2Proof.Machine.execWrCode sym len s
  | .clrCode sym => Sys2Proof.Machine.execClrCode sym s
  | .clrCodes => Sys2Proof.Machine.execClrCodes s
  | .encStart => Sys2Proof.Machine.execEncStart s
  | .encSym sym => Sys2Proof.Machine.execEncSym sym s
  | .encEnd => Sys2Proof.Machine.execEncEnd s
  | .decStart n => Sys2Proof.Machine.execDecStart n s
  | .decBits k data => Sys2Proof.Machine.execDecBits k data s
  | .setCtrl arg => Sys2Proof.Machine.execSetCtrl arg s
  | .clrStatus arg => Sys2Proof.Machine.execClrStatus arg s
  | .abort arg => Sys2Proof.Machine.execAbort arg s

end Sys2Proof.Machine
end

