-- ==== Sys2Proof/Machine/Agents.lean ====
section
/-! DEFINITION. What each agent's step does (R17, R18, R55, R57, R119, R136). A turn whose agent has no step that is
enabled leaves the block as it is (log 2). -/

namespace Sys2Proof.Machine

/-- `Execute(cmd)` (R119): an illegal word is rejected with cause ILLEGAL, any other runs its row's rule. -/
def executeWord (cmd : Word) (s : State) : Host.Outcome State Fault Refusal :=
  match decode cmd with
  | .ok i => exec i s
  | .error _ => .next (commandError .illegal cmd s)

/-- The executor's step (R18): it takes the word at the head of the port if it accepts it; until then it holds (R57,
R142), and with no word offered it is idle (R135). -/
def executorStep (s : State) : Host.Outcome State Fault Refusal :=
  match s.port with
  | [] => .next s
  | cmd :: rest =>
    match accepts s cmd with
    | true => executeWord cmd { s with port := rest }
    | false => .next s

/-- The host offers a word once those before it are taken; it changes no word it already offers (R20, R116; log 3). -/
def offerWord (cmd : Word) (s : State) : State := { s with port := s.port ++ [cmd] }

/-- One turn (R17). -/
def takeTurn (t : Turn) (s : State) : Host.Outcome State Fault Refusal :=
  match t with
  | .executor => executorStep s
  | .host cmd => .next (offerWord cmd s)
  | .doutConsumer => .next (popDout s)
  | .eoutConsumer => .next (popEout s)
  | .reset => .next (resetBlock s)

/-- The next turn of the list, or the executor's when none is left (log 1). -/
def nextTurn (s : State) : Host.Outcome State Fault Refusal :=
  match s.turns with
  | [] => executorStep s
  | t :: ts => takeTurn t { s with turns := ts }

/-- The state with a word as the first offered one and the next turn the executor's (log 8). -/
def withOfferedWord (s : State) (cmd : Word) : State :=
  { s with port := cmd :: s.port, turns := .executor :: s.turns }

end Sys2Proof.Machine
end

