-- ==== Sys2Proof/Machine/Step.lean ====
section
/-! DEFINITION. One step of the machine: the turn of one agent, or reset (R17). The executor's step is what a processor
has for fetch and execute: the block fetches nothing and takes the word the host offers (R23). -/

namespace Sys2Proof.Machine

/-- One step. -/
def step (s : State) : Host.Outcome State Fault Refusal := nextTurn s

/-- `s` with an instruction's bits, as the opcode table numbers them, offered as the word the very next step takes. -/
def State.withFetchWord (s : State) (nbits w : Nat) : State := withOfferedWord s (tableWord nbits w)

end Sys2Proof.Machine
end

