-- ==== Sys2Proof/Machine/HostSide.lean ====
section
/-! DEFINITION. What stands outside the block: what the host puts together before it offers words, which are the
pseudo-commands (R76) and the commands that load a tree and a code table (R84, R93, R94, R139), and what a consumer makes
of the tokens (R102, R124). Nothing here is done by the block. -/

namespace Sys2Proof.Machine

/-- The number whose bit `i` is the `i`-th element: the first bit of a bit string is bit 0 (R75, R88). -/
def bitsValue : List Bool → Nat
  | [] => 0
  | b :: bs => b.toNat + 2 * bitsValue bs

/-- Bits `16j .. 16j+n-1` of a bit string as a DATA field, 0 past the end (R76). -/
def dataChunk (bits : List Bool) (j n : Nat) : BitVec 16 := BitVec.ofNat 16 (bitsValue ((bits.drop (16 * j)).take n))

/-- `DEC_BIT b` (R76). -/
def decBit (b : Bool) : Instr := .decBits 0#4 (BitVec.ofNat 16 b.toNat)

/-- The DEC_BITS commands of `DEC_STREAM` (R76): command `j` carries `min(16, m - 16j)` bits. -/
def decStreamBits (bits : List Bool) : List Instr :=
  (List.range ((bits.length + 15) / 16)).map fun j =>
    let n := min 16 (bits.length - 16 * j)
    .decBits (BitVec.ofNat 4 (n - 1)) (dataChunk bits j n)

/-- `DEC_STREAM "b0 b1 ... b(m-1)"` (R76). -/
def decStream (bits : List Bool) : List Instr := .decStart (BitVec.ofNat 28 bits.length) :: decStreamBits bits

/-- `LOAD_CODE sym, "c0 ... c(L-1)"` (R76). -/
def loadCode (sym : Symbol) (path : List Bool) : List Instr :=
  (List.range ((path.length + 15) / 16)).map (fun k => .codeStage (BitVec.ofNat 4 k) (dataChunk path k 16)) ++
    [.wrCode sym (BitVec.ofNat 8 path.length)]

/-- `CLR_ALL_STATUS` (R76). -/
def clrAllStatus : Instr := .clrStatus 0x1F0#16

/-- `ABORT_ALL` (R76). -/
def abortAll : Instr := .abort 3#16

/-! ### Loading a tree and its table -/

/-- HTC's HuffmanNode tree without its frequencies, which the block does not store (R14, R47). -/
inductive HuffTree where
  | leaf (sym : Symbol)
  | node (left right : HuffTree)
  deriving DecidableEq, Repr

/-- The commands that write a tree's nodes, `addr` giving the address of the node at each path from the root (R84). -/
def treeCommands (addr : List Bool → NodeAddr) (path : List Bool) : HuffTree → List Instr
  | .leaf sym => [.wrLeaf (addr path) sym]
  | .node left right =>
    .wrInternal (addr path) (addr (path ++ [false])) (addr (path ++ [true])) ::
      (treeCommands addr (path ++ [false]) left ++ treeCommands addr (path ++ [true]) right)

/-- A tree loaded from scratch: CLR_TREE, its nodes, then the root (R82, R84). -/
def loadTree (addr : List Bool → NodeAddr) (t : HuffTree) : List Instr :=
  .clrTree :: (treeCommands addr [] t ++ [.setRoot (addr [])])

/-- Each leaf's symbol with the path to it, 0 for left and 1 for right, left subtree first (R94). -/
def leafPaths (path : List Bool) : HuffTree → List (Symbol × List Bool)
  | .leaf sym => [(sym, path)]
  | .node left right => leafPaths (path ++ [false]) left ++ leafPaths (path ++ [true]) right

/-- The code table of a tree (R94); a single leaf has the fixed one-bit code "0" (R93). -/
def codeTableOf : HuffTree → List (Symbol × List Bool)
  | .leaf sym => [(sym, [false])]
  | .node left right => leafPaths [] (.node left right)

/-- A code table loaded from scratch: CLR_CODES, then LOAD_CODE for each symbol (R92, R93, R94). -/
def loadTable (t : HuffTree) : List Instr := .clrCodes :: (codeTableOf t).flatMap fun e => loadCode e.1 e.2

/-- The start-up of R139 after reset, less its register reads: the enables, the tree, the code table. -/
def startUp (enables : BitVec 16) (addr : List Bool → NodeAddr) (t : HuffTree) : List Instr :=
  .setCtrl enables :: (treeCommands addr [] t ++ [.setRoot (addr [])] ++
    (codeTableOf t).flatMap fun e => loadCode e.1 e.2)

/-! ### What a consumer makes of the tokens -/

/-- The sessions whose tokens a consumer of `DOUT` has seen, `syms` being those of the open one: the symbols of a session
that ended in OK, and nothing of one that did not (R116, R124). -/
def consumeDout (syms : List Symbol) : List DToken → List (Option (List Symbol))
  | [] => []
  | .sym s :: ts => consumeDout (syms ++ [s]) ts
  | .done st _ :: ts => (if st = .ok then some syms else none) :: consumeDout [] ts

/-- The same of `EOUT`: the bit sequence of a session that ended in OK and its exact number of bits (R102, R124). -/
def consumeEout (bits : List Bool) : List EToken → List (Option (List Bool × Count))
  | [] => []
  | .cw len code :: ts => consumeEout (bits ++ pathOf len code) ts
  | .done st n :: ts => (if st = .ok then some (bits, n) else none) :: consumeEout [] ts

end Sys2Proof.Machine
end

