-- ==== Sys2Proof/Machine/Assembler.lean ====
section
/-! DEFINITION. The assembler of R75: a line of text, its operands, and the commands it stands for. It is the host's; the
block sees only the words. Text is a list of characters. -/

namespace Sys2Proof.Machine

/-! ### Lines and their operand checks -/

/-- A line of assembly with its operands as numbers or bit strings, in R75's operand order. -/
inductive AsmLine where
  | nop
  | wrLeaf (a sym : Nat)
  | wrInternal (a l r : Nat)
  | clrNode (a : Nat)
  | clrTree
  | setRoot (a : Nat)
  | codeStage (k data : Nat)
  | wrCode (sym len : Nat)
  | clrCode (sym : Nat)
  | clrCodes
  | encStart
  | encSym (sym : Nat)
  | encEnd
  | decStart (n : Nat)
  | decBits (n data : Nat)
  | setCtrl (arg : Nat)
  | clrStatus (mask : Nat)
  | abort (mask : Nat)
  | decBit (b : Bool)
  | decStream (bits : List Bool)
  | loadCode (sym : Nat) (path : List Bool)
  | clrAllStatus
  | abortAll
  deriving DecidableEq, Repr

/-- A number as a field of a given width; none where it does not fit (R75). -/
def fit (width n : Nat) : Option (BitVec width) := if n < 2 ^ width then some (BitVec.ofNat width n) else none

/-- The commands of a line; none where the assembler refuses it (R75, R76). -/
def assemble : AsmLine → Option (List Instr)
  | .nop => some [.nop]
  | .wrLeaf a sym => do some [.wrLeaf (← fit 9 a) (← fit 8 sym)]
  | .wrInternal a l r => do some [.wrInternal (← fit 9 a) (← fit 9 l) (← fit 9 r)]
  | .clrNode a => do some [.clrNode (← fit 9 a)]
  | .clrTree => some [.clrTree]
  | .setRoot a => do some [.setRoot (← fit 9 a)]
  | .codeStage k data => do some [.codeStage (← fit 4 k) (← fit 16 data)]
  | .wrCode sym len => do some [.wrCode (← fit 8 sym) (← fit 8 len)]
  | .clrCode sym => do some [.clrCode (← fit 8 sym)]
  | .clrCodes => some [.clrCodes]
  | .encStart => some [.encStart]
  | .encSym sym => do some [.encSym (← fit 8 sym)]
  | .encEnd => some [.encEnd]
  | .decStart n => do some [.decStart (← fit 28 n)]
  | .decBits n data => if 1 ≤ n then do some [.decBits (← fit 4 (n - 1)) (← fit 16 data)] else none
  | .setCtrl arg => do some [.setCtrl (← fit 16 arg)]
  | .clrStatus mask => do some [.clrStatus (← fit 16 mask)]
  | .abort mask => do some [.abort (← fit 16 mask)]
  | .decBit b => some [Sys2Proof.Machine.decBit b]
  | .decStream bits => do
    let _ ← fit 28 bits.length
    some (Sys2Proof.Machine.decStream bits)
  | .loadCode sym path =>
    if 1 ≤ path.length ∧ path.length ≤ 255 then do some (Sys2Proof.Machine.loadCode (← fit 8 sym) path) else none
  | .clrAllStatus => some [Sys2Proof.Machine.clrAllStatus]
  | .abortAll => some [Sys2Proof.Machine.abortAll]

/-! ### Text -/

/-- An operand as it is written. -/
inductive AsmOperand where
  /-- A number: decimal, `0x` hexadecimal or `0b` binary. -/
  | number (n : Nat)
  /-- A character literal `'a'`, which a symbol operand may be. -/
  | char (c : Char)
  /-- A bit-string literal, first bit first. -/
  | bits (bs : List Bool)
  deriving DecidableEq, Repr

/-- A symbol operand: a number, or a character's 8-bit code. -/
def AsmOperand.symbol : AsmOperand → Option Nat
  | .number n => some n
  | .char c => some c.toNat
  | .bits _ => none

/-- The value of a digit. -/
def digitValue (c : Char) : Option Nat :=
  if '0'.toNat ≤ c.toNat ∧ c.toNat ≤ '9'.toNat then some (c.toNat - '0'.toNat)
  else if 'a'.toNat ≤ c.toNat ∧ c.toNat ≤ 'f'.toNat then some (c.toNat - 'a'.toNat + 10)
  else if 'A'.toNat ≤ c.toNat ∧ c.toNat ≤ 'F'.toNat then some (c.toNat - 'A'.toNat + 10)
  else none

/-- The number some digits spell, after the digits of value `n`. -/
def digitsValue (base n : Nat) : List Char → Option Nat
  | [] => some n
  | c :: cs => do
    let d ← digitValue c
    if d < base then digitsValue base (base * n + d) cs else none

/-- A number of at least one digit. -/
def parseDigits (base : Nat) (cs : List Char) : Option AsmOperand :=
  if cs = [] then none else (digitsValue base 0 cs).map .number

/-- The bits of a bit-string literal, after its opening quote. -/
def parseBits : List Char → Option (List Bool)
  | ['"'] => some []
  | '0' :: cs => (parseBits cs).map (false :: ·)
  | '1' :: cs => (parseBits cs).map (true :: ·)
  | _ => none

/-- An operand; a hexadecimal literal may hold `_` as a separator (R10). -/
def parseOperand : List Char → Option AsmOperand
  | ['\'', c, '\''] => some (.char c)
  | '"' :: cs => (parseBits cs).map .bits
  | '0' :: 'x' :: cs => parseDigits 16 (cs.filter (· != '_'))
  | '0' :: 'b' :: cs => parseDigits 2 cs
  | cs => parseDigits 10 cs

/-- A space or a tab. -/
def isBlank (c : Char) : Bool := c == ' ' || c == '\t'

/-- The text without blanks at either end. -/
def trimBlanks (cs : List Char) : List Char := ((cs.dropWhile isBlank).reverse.dropWhile isBlank).reverse

/-- The text between commas, up to a comment; `piece` is the text since the last comma, backwards. A character literal is
taken whole, so its character is no comma and starts no comment (log 20). -/
def splitAtCommas (piece : List Char) : List Char → List (List Char)
  | [] => [piece.reverse]
  | '\'' :: c :: '\'' :: cs => splitAtCommas ('\'' :: c :: '\'' :: piece) cs
  | ';' :: _ => [piece.reverse]
  | ',' :: cs => piece.reverse :: splitAtCommas [] cs
  | c :: cs => splitAtCommas (c :: piece) cs

/-- The mnemonic of a line and the text of its operands. -/
def splitLine (cs : List Char) : List Char × List (List Char) :=
  match splitAtCommas [] cs with
  | [] => ([], [])
  | first :: rest =>
    let first := trimBlanks first
    let mnemonic := first.takeWhile (!isBlank ·)
    let operand := trimBlanks (first.dropWhile (!isBlank ·))
    (mnemonic, if operand = [] ∧ rest = [] then [] else operand :: rest.map trimBlanks)

/-- The line a mnemonic and its operands stand for (R75, R76). -/
def parseLine (mnemonic : String) (operands : List AsmOperand) : Option AsmLine :=
  match mnemonic, operands with
  | "NOP", [] => some .nop
  | "WR_LEAF", [.number a, sym] => sym.symbol.map fun q => .wrLeaf a q
  | "WR_INTERNAL", [.number a, .number l, .number r] => some (.wrInternal a l r)
  | "CLR_NODE", [.number a] => some (.clrNode a)
  | "CLR_TREE", [] => some .clrTree
  | "SET_ROOT", [.number a] => some (.setRoot a)
  | "CODE_STAGE", [.number k, .number data] => some (.codeStage k data)
  | "WR_CODE", [sym, .number len] => sym.symbol.map fun q => .wrCode q len
  | "CLR_CODE", [sym] => sym.symbol.map .clrCode
  | "CLR_CODES", [] => some .clrCodes
  | "ENC_START", [] => some .encStart
  | "ENC_SYM", [sym] => sym.symbol.map .encSym
  | "ENC_END", [] => some .encEnd
  | "DEC_START", [.number n] => some (.decStart n)
  | "DEC_BITS", [.number n, .number data] => some (.decBits n data)
  | "SET_CTRL", [.number arg] => some (.setCtrl arg)
  | "CLR_STATUS", [.number mask] => some (.clrStatus mask)
  | "ABORT", [.number mask] => some (.abort mask)
  | "DEC_BIT", [.number b] => if b < 2 then some (.decBit (b == 1)) else none
  | "DEC_STREAM", [.bits bs] => some (.decStream bs)
  | "LOAD_CODE", [sym, .bits path] => sym.symbol.map fun q => .loadCode q path
  | "CLR_ALL_STATUS", [] => some .clrAllStatus
  | "ABORT_ALL", [] => some .abortAll
  | _, _ => none

/-- The commands of a line of text; none where the assembler refuses it. A line with no mnemonic has no command. -/
def assembleText (cs : List Char) : Option (List Instr) :=
  let line := splitLine cs
  if line = ([], []) then some []
  else do
    let operands ← line.2.mapM parseOperand
    assemble (← parseLine (String.ofList line.1) operands)

/-- The commands of a text, one command or pseudo-command a line. -/
def assembleLines (ls : List (List Char)) : Option (List Instr) := (ls.mapM assembleText).map List.flatten

end Sys2Proof.Machine
end

