-- ==== Sys2Proof/Machine/Flags.lean ====
section
/-! DEFINITION. The flags (R45) as the outside sees them: the interrupt line and the STATUS register. The block has no
arithmetic condition codes. -/

namespace Sys2Proof.Machine

/-- The two-bit value of a session state (R24, R98, R103). -/
def Session.code : Session → BitVec 2
  | .idle => 0#2
  | .active => 1#2
  | .faulted => 2#2

/-- The `irq` output, a level (R129). -/
def irq (s : State) : Bool :=
  (s.ieDone && (s.decDone || s.encDone)) || (s.ieErr && (s.cmdErr || s.decErr || s.encErr))

/-- `STATUS` with a given BUSY bit (R30). -/
def statusWord (busy : Bool) (s : State) : Word :=
  put 0 s.dstate.code ||| put 2 s.estate.code ||| put 4 (BitVec.ofBool s.cmdErr) ||| put 5 (BitVec.ofBool s.decErr) |||
    put 6 (BitVec.ofBool s.encErr) ||| put 7 (BitVec.ofBool s.decDone) ||| put 8 (BitVec.ofBool s.encDone) |||
    put 9 (BitVec.ofBool (irq s)) ||| put 10 (BitVec.ofBool busy)

end Sys2Proof.Machine
end

