-- ==== Sys2Proof/Machine/Registers.lean ====
section
/-! DEFINITION. What the outside reads from the block: the register port (R27 to R44), the wire format of the tokens
(R56) and the output signals of R19. Reading changes nothing (R28), so these are functions of the state and no step. -/

namespace Sys2Proof.Machine

/-- The value of the register at an index, at a command boundary (R27, R115). Bits no field names read 0. It is a function
of the state and the index alone (R21), so what STATUS.IRQ reads while `rst` is 1, where the `irq` output is 0 (R136), is
the model's choice: the state's `irq` (DESIGN CHOICE, log 22). -/
def readRegister (s : State) (idx : BitVec 4) : Word :=
  if idx = 0x0#4 then Config.idValue
  else if idx = 0x1#4 then statusWord false s
  else if idx = 0x2#4 then put 0 (BitVec.ofBool s.ieDone) ||| put 1 (BitVec.ofBool s.ieErr)
  else if idx = 0x3#4 then put 0 s.root
  else if idx = 0x4#4 then put 0 s.remain
  else if idx = 0x5#4 then put 0 s.consumed
  else if idx = 0x6#4 then put 0 s.cur ||| put 31 (BitVec.ofBool s.mid)
  else if idx = 0x7#4 then put 0 s.symcount
  else if idx = 0x8#4 then put 0 s.ebits
  else if idx = 0x9#4 then put 0 s.ceCause
  else if idx = 0xA#4 then s.ceWord
  else if idx = 0xB#4 then put 0 s.deInfo
  else if idx = 0xC#4 then put 0 s.deBit
  else if idx = 0xD#4 then put 0 s.eeInfo
  else if idx = 0xE#4 then put 0 (BitVec.ofNat 16 s.dout.length) ||| put 16 (BitVec.ofNat 16 s.eout.length)
  else put 0 (BitVec.ofNat 16 s.doutDepth) ||| put 16 (BitVec.ofNat 16 s.eoutDepth)

/-- The value of the `k`-th register read that falls in a BUSY window: `ID`, `PARAM` and `STATUS.BUSY` are defined, every
other value and bit is a free value (R21, R140; log 9). No step of the model is in such a window. -/
def readRegisterBusy (k : Nat) (s : State) (idx : BitVec 4) : Word :=
  if idx = 0x0#4 then Config.idValue
  else if idx = 0xF#4 then readRegister s 0xF#4
  else if idx = 0x1#4 then Config.busyRead k ||| 0x400#32
  else Config.busyRead k

/-- `dout_kind` of a token (R56). -/
def DToken.kind : DToken → BitVec 1
  | .sym _ => 0#1
  | .done _ _ => 1#1

/-- `dout_data` of a token (R56). -/
def DToken.data : DToken → BitVec 32
  | .sym s => put 0 s
  | .done st n => put 0 n ||| put 28 st.code

/-- `eout_kind` of a token (R56). -/
def EToken.kind : EToken → BitVec 1
  | .cw _ _ => 0#1
  | .done _ _ => 1#1

/-- `eout_len` of a token (R56). -/
def EToken.len : EToken → BitVec 8
  | .cw len _ => len
  | .done _ _ => 0#8

/-- `eout_bits` of a token (R56). -/
def EToken.bits : EToken → BitVec 255
  | .cw _ bits => bits
  | .done st n => (put 0 n ||| put 28 st.code).setWidth 255

/-- The output signals of R19, less `csr_rdata`, which `readRegister` gives, and `cmd_ready`, which depends on the offered
word. A payload is given only while its `valid` is 1. -/
structure Outputs where
  doutValid : Bool
  dout : Option (BitVec 1 × BitVec 32)
  eoutValid : Bool
  eout : Option (BitVec 1 × BitVec 8 × BitVec 255)
  irq : Bool
  deriving DecidableEq, Repr

/-- The output signals while `rst` has a given value: with `rst` = 1 nothing is valid and `irq` is 0 (R20, R136). -/
def outputs (rst : Bool) (s : State) : Outputs :=
  match rst with
  | true => { doutValid := false, dout := none, eoutValid := false, eout := none, irq := false }
  | false =>
    { doutValid := !s.dout.isEmpty
      dout := s.dout.head?.map fun t => (t.kind, t.data)
      eoutValid := !s.eout.isEmpty
      eout := s.eout.head?.map fun t => (t.kind, t.len, t.bits)
      irq := Sys2Proof.Machine.irq s }

/-- `cmd_valid`: the host offers a word (R19, R20). -/
def cmdValid (s : State) : Bool := !s.port.isEmpty

/-- `cmd_data` while `cmd_valid` is 1: the word at the head of the port (R18, R19). -/
def cmdData (s : State) : Option Word := s.port.head?

/-- `cmd_ready` for the offered word: the block takes it, unless `rst` is 1 (R19, R20, R57). -/
def cmdReady (rst : Bool) (s : State) (cmd : Word) : Bool := !rst && accepts s cmd

end Sys2Proof.Machine
end

