-- ==== Sys2Proof/Safety.lean ====
section
/-! DEFINITION. The terms claims are made in: the invariant of the machine (R26 and the rules beside it), what a loaded
tree and table are (R86, R95), the reference decoder of HTC §4.5, and runs of commands. Nothing here is part of a step:
the block never evaluates R86 or R95. -/

namespace Sys2Proof.Machine

/-- The commands executed in order, each to its end; the outcome of the first that does not answer a next state. -/
def execAll : List Instr → State → Host.Outcome State Fault Refusal
  | [], s => .next s
  | i :: is, s =>
    match exec i s with
    | .next t => execAll is t
    | .fault r => .fault r
    | .refused r => .refused r

/-- The command is rejected with a cause (R120): the first rejection since `cmd_err` was last 0 is recorded, with the
command's word, and nothing else changes. -/
def Rejects (i : Instr) (s : State) (cause : Status) : Prop :=
  exec i s = .next { s with
    cmdErr := true
    ceCause := if s.cmdErr then s.ceCause else cause.code
    ceWord := if s.cmdErr then s.ceWord else encode i }

/-! ### Kinds of commands -/

/-- The tree commands (R78). -/
def isTreeCommand : Instr → Bool
  | .wrLeaf _ _ => true
  | .wrInternal _ _ _ => true
  | .clrNode _ => true
  | .clrTree => true
  | .setRoot _ => true
  | .nop => false
  | .codeStage _ _ => false
  | .wrCode _ _ => false
  | .clrCode _ => false
  | .clrCodes => false
  | .encStart => false
  | .encSym _ => false
  | .encEnd => false
  | .decStart _ => false
  | .decBits _ _ => false
  | .setCtrl _ => false
  | .clrStatus _ => false
  | .abort _ => false

/-- The code table commands that check the encoder state (R87): all but CODE_STAGE. -/
def isCodeCommand : Instr → Bool
  | .wrCode _ _ => true
  | .clrCode _ => true
  | .clrCodes => true
  | .nop => false
  | .wrLeaf _ _ => false
  | .wrInternal _ _ _ => false
  | .clrNode _ => false
  | .clrTree => false
  | .setRoot _ => false
  | .codeStage _ _ => false
  | .encStart => false
  | .encSym _ => false
  | .encEnd => false
  | .decStart _ => false
  | .decBits _ _ => false
  | .setCtrl _ => false
  | .clrStatus _ => false
  | .abort _ => false

/-- The commands that drive a decode session: DEC_START, DEC_BITS, and ABORT with `ARG[0]` (R103). -/
def drivesDecoder : Instr → Bool
  | .decStart _ => true
  | .decBits _ _ => true
  | .abort arg => arg.getLsbD 0
  | .nop => false
  | .wrLeaf _ _ => false
  | .wrInternal _ _ _ => false
  | .clrNode _ => false
  | .clrTree => false
  | .setRoot _ => false
  | .codeStage _ _ => false
  | .wrCode _ _ => false
  | .clrCode _ => false
  | .clrCodes => false
  | .encStart => false
  | .encSym _ => false
  | .encEnd => false
  | .setCtrl _ => false
  | .clrStatus _ => false

/-- The words R72 lists as illegal. -/
def ReservedEncoding (w : Word) : Prop :=
  -- a reserved bit set to 1: formats Z, T, S, D and Y of R68
  (opField w ∈ [0x0#4, 0x4#4, 0x9#4, 0xA#4, 0xC#4] ∧ w.extractLsb' 0 28 ≠ 0#28) ∨
  (opField w ∈ [0x1#4, 0x2#4, 0x3#4, 0x5#4] ∧ w.extractLsb' 27 1 ≠ 0#1) ∨
  (opField w = 0x1#4 ∧ w.extractLsb' 8 10 ≠ 0#10) ∨
  (opField w ∈ [0x3#4, 0x5#4] ∧ w.extractLsb' 0 18 ≠ 0#18) ∨
  (opField w = 0x7#4 ∧ w.extractLsb' 16 12 ≠ 0#12) ∨
  (opField w ∈ [0x8#4, 0xB#4] ∧ w.extractLsb' 8 20 ≠ 0#20) ∨
  (opField w ∈ [0x6#4, 0xE#4, 0xF#4] ∧ w.extractLsb' 16 8 ≠ 0#8) ∨
  -- `OP` = 0xF with `SUB` in 3..15
  (opField w = 0xF#4 ∧ 3 ≤ (kField w).toNat) ∨
  -- WR_CODE with `LEN` = 0
  (opField w = 0x7#4 ∧ lenField w = 0#8) ∨
  -- DEC_BITS with a 1 in `DATA` above bit `n-1`
  (opField w = 0xE#4 ∧ ∃ j, (kField w).toNat < j ∧ (dataField w).getLsbD j = true) ∨
  -- SET_CTRL with `ARG[15:2]` not 0
  (opField w = 0xF#4 ∧ kField w = 0#4 ∧ w.extractLsb' 2 14 ≠ 0#14) ∨
  -- CLR_STATUS with `ARG[3:0]` or `ARG[15:9]` not 0
  (opField w = 0xF#4 ∧ kField w = 1#4 ∧ (w.extractLsb' 0 4 ≠ 0#4 ∨ w.extractLsb' 9 7 ≠ 0#7)) ∨
  -- ABORT with `ARG[15:2]` not 0
  (opField w = 0xF#4 ∧ kField w = 2#4 ∧ w.extractLsb' 2 14 ≠ 0#14)

/-- The words whose acceptance looks at `DOUT` (R57). -/
def usesDout (w : Word) : Prop :=
  opField w = 0xD#4 ∨ opField w = 0xE#4 ∨ (opField w = 0xF#4 ∧ kField w = 2#4 ∧ (dataField w).getLsbD 0 = true)

/-- The words whose acceptance looks at `EOUT` (R57). -/
def usesEout (w : Word) : Prop :=
  opField w = 0xB#4 ∨ opField w = 0xC#4 ∨ (opField w = 0xF#4 ∧ kField w = 2#4 ∧ (dataField w).getLsbD 1 = true)

/-! ### Sessions as lists of commands -/

/-- The bits a list of DEC_BITS operands delivers, in order (R105). -/
def sessionBits (cs : List (BitVec 4 × BitVec 16)) : List Bool := cs.flatMap fun c => deliveredBits c.1 c.2

/-- A decode session of `n` bits delivered by DEC_BITS commands (R103). -/
def decodeSession (n : Count) (cs : List (BitVec 4 × BitVec 16)) : List Instr :=
  .decStart n :: cs.map fun c => .decBits c.1 c.2

/-- An encode session of some symbols (R98). -/
def encodeSession (syms : List Symbol) : List Instr := .encStart :: (syms.map .encSym ++ [.encEnd])

/-- The path of a symbol's code; none if it has no code. -/
def codePath (s : State) (sym : Symbol) : Option (List Bool) :=
  match codeAt s sym with
  | .invalid => none
  | .code len bits => some (pathOf len bits)

/-- The bits the symbols encode to, concatenated in order; a symbol with no code contributes none (R102). -/
def codedBits (s : State) (syms : List Symbol) : List Bool := syms.flatMap fun q => (codePath s q).getD []

/-- The token a symbol's code is pushed as (R100). -/
def codeToken (s : State) (sym : Symbol) : Option EToken :=
  match codeAt s sym with
  | .invalid => none
  | .code len bits => some (.cw len bits)

/-- What a decode session reads and writes, its output included, beside the sticky bits and their captures (R108). -/
structure DecoderView where
  nodes : Memory Node
  root : NodeAddr
  dstate : Session
  remain : Count
  consumed : Count
  cur : NodeAddr
  mid : Bool
  symcount : Count
  dout : List DToken
  deriving DecidableEq, Repr

/-- The decoder's part of a state. -/
def State.decoderView (s : State) : DecoderView where
  nodes := s.nodes
  root := s.root
  dstate := s.dstate
  remain := s.remain
  consumed := s.consumed
  cur := s.cur
  mid := s.mid
  symcount := s.symcount
  dout := s.dout

/-! ### Trees in the node memory (R86) -/

/-- The child of an INTERNAL entry that a bit selects. -/
def childOf (s : State) (a : NodeAddr) (b : Bool) : Option NodeAddr :=
  match nodeAt s a with
  | .empty => none
  | .leaf _ => none
  | .internal left right => some (selectChild b left right)

/-- The address a path of child selections leads to. -/
def follow (s : State) (a : NodeAddr) : List Bool → Option NodeAddr
  | [] => some a
  | b :: bs =>
    match childOf s a b with
    | none => none
    | some c => follow s c bs

/-- `a` is in `Reach`: it is reachable from the root through children of INTERNAL entries (R86). -/
def Reach (s : State) (a : NodeAddr) : Prop := ∃ p, follow s s.root p = some a

/-- `WellFormed(NODE, root)` (R86). -/
structure TreeWellFormed (s : State) : Prop where
  /-- (a) the root holds a node. -/
  root_present : nodeAt s s.root ≠ .empty
  /-- (b) no child of a reachable INTERNAL entry is EMPTY. -/
  children_present : ∀ a b c, Reach s a → childOf s a b = some c → nodeAt s c ≠ .empty
  /-- (c) no reachable address is its own descendant. -/
  acyclic : ∀ a p, Reach s a → p ≠ [] → follow s a p ≠ some a
  /-- (c) every reachable address is the child of at most one reachable node, in at most one position. -/
  one_parent : ∀ a b a' b' c, Reach s a → Reach s a' → childOf s a b = some c → childOf s a' b' = some c → a = a' ∧ b = b'
  /-- (d) no two reachable LEAF entries hold the same symbol. -/
  symbols_distinct : ∀ a a' sym, Reach s a → Reach s a' → nodeAt s a = .leaf sym → nodeAt s a' = .leaf sym → a = a'

/-- `Consistent(NODE, root, CODE)` (R95). -/
structure Consistent (s : State) : Prop where
  /-- (a) the tree is well formed. -/
  tree : TreeWellFormed s
  /-- (b) the symbols with a code are those of the reachable leaves. -/
  coded_iff_leaf : ∀ sym, codeAt s sym ≠ .invalid ↔ ∃ a, Reach s a ∧ nodeAt s a = .leaf sym
  /-- (b) under an INTERNAL root, a symbol's code is the path to its leaf. -/
  code_is_path : ∀ sym len bits left right, nodeAt s s.root = .internal left right → codeAt s sym = .code len bits →
    ∃ a, follow s s.root (pathOf len bits) = some a ∧ nodeAt s a = .leaf sym
  /-- (b) under a LEAF root, its code is "0". -/
  degenerate_code : ∀ sym, nodeAt s s.root = .leaf sym → codeAt s sym = .code 1#8 0#255

/-- The node memory holds the tree `t` at address `a`. -/
def Represents (s : State) : NodeAddr → HuffTree → Prop
  | a, .leaf sym => nodeAt s a = .leaf sym
  | a, .node left right => ∃ l r, nodeAt s a = .internal l r ∧ Represents s l left ∧ Represents s r right

/-- The paths from the root to the nodes of a tree. -/
def nodePaths (path : List Bool) : HuffTree → List (List Bool)
  | .leaf _ => [path]
  | .node left right => path :: (nodePaths (path ++ [false]) left ++ nodePaths (path ++ [true]) right)

/-- A tree the block can hold, at the addresses `addr` gives the nodes: the addresses are one-to-one (R84), every leaf
has a symbol of its own (R86 (d)), and no code is longer than `MAX_CODE_LEN` (R7). -/
structure Loadable (addr : List Bool → NodeAddr) (t : HuffTree) : Prop where
  one_to_one : ∀ p q, p ∈ nodePaths [] t → q ∈ nodePaths [] t → addr p = addr q → p = q
  symbols_distinct : ((leafPaths [] t).map fun e => e.1).Nodup
  short_codes : ∀ e ∈ leafPaths [] t, e.2.length ≤ 255

/-! ### HTC §4.5 as a reference -/

/-- The child a bit selects: "`0` moves to `left`, `1` moves to `right`". -/
def selectSubtree (b : Bool) (left right : HuffTree) : HuffTree :=
  match b with
  | false => left
  | true => right

/-- The decoder of HTC §4.5 on a tree: the symbols completed, and whether the bits ran out mid-traversal. `cursor` is the
subtree the cursor is at. On a single leaf every bit is the symbol. -/
def htcDecode (root : HuffTree) : HuffTree → List Bool → List Symbol × Bool
  | cursor, [] => ([], cursor != root)
  | cursor, b :: bs =>
    match cursor with
    | .leaf sym =>
      let r := htcDecode root root bs
      (sym :: r.1, r.2)
    | .node left right =>
      match selectSubtree b left right with
      | .leaf sym =>
        let r := htcDecode root root bs
        (sym :: r.1, r.2)
      | .node l r => htcDecode root (.node l r) bs

/-! ### The invariant -/

/-- What every step keeps: (I1) to (I8) of R26, with the canonical form of the memories (log 6), the form of a code
(R50), the range of the depths (R9, R44), the capture groups (R38, R40, R42, R123) and the status codes of R117. -/
structure Inv (s : State) : Prop where
  /-- The node memory is in canonical form. -/
  nodes_wf : Memory.wf .empty Config.nodeDepth s.nodes = true
  /-- The code table is in canonical form. -/
  codes_wf : Memory.wf .invalid Config.nsym s.codes = true
  /-- R50: a code has length 1..255 and is 0 at and above its length. -/
  codes_form : ∀ sym len bits, codeAt s sym = .code len bits →
    len ≠ 0#8 ∧ ∀ i, len.toNat ≤ i → bits.getLsbD i = false
  /-- (I2), of a FAULTED session as well. -/
  open_remain : s.dstate ≠ .idle → 1 ≤ s.remain.toNat
  /-- (I3): the counts of an open session add up to a 28-bit number. -/
  open_count : s.dstate ≠ .idle → s.consumed.toNat + s.remain.toNat ≤ Config.cntMax
  /-- (I4). -/
  at_root : s.mid = false → s.dstate = .active → s.cur = s.root
  /-- (I5). -/
  mid_internal : s.mid = true → s.dstate ≠ .idle → ∃ l r, nodeAt s s.cur = .internal l r
  /-- (I6). -/
  symbols_le_bits : s.symcount.toNat ≤ s.consumed.toNat
  /-- (I7). -/
  dout_fits : s.dout.length ≤ s.doutDepth
  /-- (I7). -/
  eout_fits : s.eout.length ≤ s.eoutDepth
  /-- (I8). -/
  idle_remain : s.dstate = .idle → s.remain = 0#28
  /-- R9, R44. -/
  dout_depth : 17 ≤ s.doutDepth ∧ s.doutDepth < 65536
  /-- R9, R44. -/
  eout_depth : 1 ≤ s.eoutDepth ∧ s.eoutDepth < 65536
  /-- R38, R123: no capture without its sticky bit. -/
  ce_clear : s.cmdErr = false → s.ceCause = 0#4 ∧ s.ceWord = 0#32
  /-- R38: ILLEGAL, SEQUENCE or OVERRUN. -/
  ce_cause : s.cmdErr = true → s.ceCause = 8#4 ∨ s.ceCause = 9#4 ∨ s.ceCause = 10#4
  /-- R40, R41, R123. -/
  de_clear : s.decErr = false → s.deInfo = 0#24 ∧ s.deBit = 0#28
  /-- R40: INVALID_CODE or TRUNCATED_STREAM. -/
  de_status : s.decErr = true → s.deInfo.extractLsb' 0 4 = 1#4 ∨ s.deInfo.extractLsb' 0 4 = 2#4
  /-- R42, R123. -/
  ee_clear : s.encErr = false → s.eeInfo = 0#12
  /-- R42: MISSING_SYMBOL or BITCOUNT_OVERFLOW. -/
  ee_status : s.encErr = true → s.eeInfo.extractLsb' 0 4 = 3#4 ∨ s.eeInfo.extractLsb' 0 4 = 4#4
  /-- R117: the statuses of a decode session's END. -/
  dout_status : ∀ st n, DToken.done st n ∈ s.dout →
    st = .ok ∨ st = .invalidCode ∨ st = .truncatedStream ∨ st = .aborted
  /-- R117: the statuses of an encode session's END. -/
  eout_status : ∀ st n, EToken.done st n ∈ s.eout →
    st = .ok ∨ st = .missingSymbol ∨ st = .bitcountOverflow ∨ st = .aborted

end Sys2Proof.Machine
end

