-- ==== Sys2Proof/Certificates/Slice0/Obligations.lean ====
section
/-! DEFINITION. The statements about the model, for the provers. Each docstring names the rule of the spec, or the
sections, it formalises. -/

open Sys2Proof Sys2Proof.Machine

/-! ### Encoding (30_encoding.md) -/

/-- R68, R69, R70: no bit of an encoding is dropped. -/
def Obligations.DecodeOfEncodeIsTheInstruction : Prop :=
  ∀ i : Instr, i.wellFormed = true → decode (encode i) = .ok i

/-- R68, R70, R74: a word that decodes is the word of the instruction it decodes to. -/
def Obligations.DecodedWordsEncodeBack : Prop :=
  ∀ (w : Word) (i : Instr), decode w = .ok i → i.wellFormed = true ∧ encode i = w

/-- R70, R71: the decoder takes exactly the legal words, each as the one row that matches it. -/
def Obligations.LegalWordsAreTheRowsOfTheOpcodeMap : Prop :=
  (∀ w, legal w = true ↔ ∃ i, decode w = .ok i) ∧
  (∀ w i, decode w = .ok i → ∃ r ∈ opmap, r.hits w = true ∧ r.extra.holds w = true ∧ r.mnemonic = i.mnemonic) ∧
  (∀ w, ∀ r ∈ opmap, ∀ r' ∈ opmap, r.hits w = true → r'.hits w = true → r = r')

/-- R72, R119, R120: the words R72 lists are the ones that are not legal, and an accepted one is rejected with cause
ILLEGAL. -/
def Obligations.ReservedEncodingsAreRejectedAsIllegal : Prop :=
  (∀ w, ReservedEncoding w ↔ legal w = false) ∧
  (∀ (s : State) (w : Word) (rest : List Word), ReservedEncoding w → s.port = w :: rest → accepts s w = true →
    executorStep s = .next { s with
      port := rest
      cmdErr := true
      ceCause := if s.cmdErr then s.ceCause else 8#4
      ceWord := if s.cmdErr then s.ceWord else w })

/-- R77: the five examples of the encoding file. -/
def Obligations.ExampleWordsDecodeAsWritten : Prop :=
  decode 0x20000202#32 = .ok (.wrInternal 0#9 1#9 2#9) ∧
  decode 0x10040061#32 = .ok (.wrLeaf 1#9 0x61#8) ∧
  decode 0xE2000006#32 = .ok (.decBits 2#4 0b110#16) ∧ deliveredBits 2#4 0b110#16 = [false, true, true] ∧
  decode 0x70000363#32 = .ok (.wrCode 0x63#8 3#8) ∧
  decode 0xF0000003#32 = .ok (.setCtrl 3#16)

/-! ### Steps, agents and ordering (10_state.md, 20_memory.md) -/

/-- R18, R63, R119: the executor's step, when the head of the port is accepted and decodes to a command, is that command
executed on the state with the word taken. That the executor moves when no turn is listed is the model's choice (log 1). -/
def Obligations.StepRunsTheDecodedCommand : Prop :=
  ∀ (s : State) (w : Word) (rest : List Word) (i : Instr), s.port = w :: rest → accepts s w = true → decode w = .ok i →
    (s.turns = [] → step s = exec i { s with port := rest }) ∧
    (∀ ts, s.turns = .executor :: ts → step s = exec i { s with port := rest, turns := ts })

/-- R18 for the word the host places with withFetchWord (log 8): the very next step executes exactly its command. -/
def Obligations.PlacedWordIsRunByTheNextStep : Prop :=
  ∀ (s : State) (i : Instr), i.wellFormed = true → accepts s (encode i) = true →
    step (s.withFetchWord 32 (encode i).toNat) = exec i s

/-- R57: when each kind of word is accepted, that it holds until then, that no turn of the executor or the host changes
that, and that an empty FIFO is room enough. That a held turn passes is the model's choice (log 2). -/
def Obligations.CommandsAreAcceptedWhenTheirFifoHasRoom : Prop :=
  (∀ (s : State) (w : Word),
    (opField w = 0xD#4 → (accepts s w = true ↔ 1 ≤ freeDout s)) ∧
    (opField w = 0xE#4 → (accepts s w = true ↔ (kField w).toNat + 2 ≤ freeDout s)) ∧
    (opField w = 0xB#4 ∨ opField w = 0xC#4 → (accepts s w = true ↔ 1 ≤ freeEout s)) ∧
    (opField w = 0xF#4 → kField w = 2#4 → (accepts s w = true ↔
      ((dataField w).getLsbD 0 = false ∨ 1 ≤ freeDout s) ∧ ((dataField w).getLsbD 1 = false ∨ 1 ≤ freeEout s))) ∧
    (opField w ∉ [0xB#4, 0xC#4, 0xD#4, 0xE#4] → ¬ (opField w = 0xF#4 ∧ kField w = 2#4) → accepts s w = true)) ∧
  (∀ (s : State) (w : Word) (rest : List Word), s.port = w :: rest → accepts s w = false →
    (s.turns = [] → step s = .next s) ∧
    (∀ ts, s.turns = .executor :: ts → step s = .next { s with turns := ts }) ∧
    (∀ u ts, s.turns = .host u :: ts → ∃ t, step s = .next t ∧ (∃ rest', t.port = w :: rest') ∧ accepts t w = false)) ∧
  (∀ (s : State) (w : Word), 17 ≤ s.doutDepth → 1 ≤ s.eoutDepth → (usesDout w → s.dout = []) →
    (usesEout w → s.eout = []) → accepts s w = true)

/-- R55: a consumer's step hands over the head token and changes nothing else; with no token there is no step, and the
turn passes (log 2). -/
def Obligations.PopsTakeTheHeadToken : Prop :=
  (∀ (s : State) (ts : List Turn), s.turns = .doutConsumer :: ts →
    (∀ tok rest, s.dout = tok :: rest →
      step s = .next { s with dout := rest, turns := ts } ∧ (outputs false s).doutValid = true ∧
      (outputs false s).dout = some (tok.kind, tok.data)) ∧
    (s.dout = [] → step s = .next { s with turns := ts } ∧ (outputs false s).doutValid = false)) ∧
  (∀ (s : State) (ts : List Turn), s.turns = .eoutConsumer :: ts →
    (∀ tok rest, s.eout = tok :: rest →
      step s = .next { s with eout := rest, turns := ts } ∧ (outputs false s).eoutValid = true ∧
      (outputs false s).eout = some (tok.kind, tok.len, tok.bits)) ∧
    (s.eout = [] → step s = .next { s with turns := ts } ∧ (outputs false s).eoutValid = false))

/-- R54, R63, R116: over any step each FIFO only gains tokens at its tail (the executor), loses its head (its consumer's
turn), or is emptied (reset). No token is dropped or moved. -/
def Obligations.FifosKeepTheOrderOfTokens : Prop :=
  ∀ (s t : State), step s = .next t →
    ((∃ new, t.dout = s.dout ++ new) ∨ (∃ ts, s.turns = .doutConsumer :: ts ∧ t.dout = s.dout.tail) ∨
      (∃ ts, s.turns = .reset :: ts ∧ t.dout = [])) ∧
    ((∃ new, t.eout = s.eout ++ new) ∨ (∃ ts, s.turns = .eoutConsumer :: ts ∧ t.eout = s.eout.tail) ∨
      (∃ ts, s.turns = .reset :: ts ∧ t.eout = []))

/-- R136, R24, R20: the reset event sets every field of R24 to its reset value and does not consume the offered word;
while `rst` is 1 no transfer happens and `irq` is 0. The build's depths stay (log 4, log 10). -/
def Obligations.ResetEventRestoresEveryResetValue : Prop :=
  ∀ (s : State) (ts : List Turn), s.turns = .reset :: ts → ∃ t, step s = .next t ∧
    (∀ a, nodeAt t a = .empty) ∧ (∀ q, codeAt t q = .invalid) ∧ t.stage = 0#256 ∧ t.root = 0#9 ∧
    t.dstate = .idle ∧ t.remain = 0#28 ∧ t.consumed = 0#28 ∧ t.cur = 0#9 ∧ t.mid = false ∧ t.symcount = 0#28 ∧
    t.estate = .idle ∧ t.ebits = 0#28 ∧ t.cmdErr = false ∧ t.decErr = false ∧ t.encErr = false ∧ t.decDone = false ∧
    t.encDone = false ∧ t.ieDone = false ∧ t.ieErr = false ∧ t.ceCause = 0#4 ∧ t.ceWord = 0#32 ∧ t.deInfo = 0#24 ∧
    t.deBit = 0#28 ∧ t.eeInfo = 0#12 ∧ t.dout = [] ∧ t.eout = [] ∧ t.port = s.port ∧ t.turns = ts ∧
    t.doutDepth = s.doutDepth ∧ t.eoutDepth = s.eoutDepth ∧
    (∀ w, cmdReady true s w = false) ∧ (outputs true s).doutValid = false ∧ (outputs true s).eoutValid = false ∧
    (outputs true s).irq = false

/-- R128, R54: no error stops the block. That a held or idle executor, and a consumer with no token, answer a next state
with the block unchanged is the model's choice (log 2, and log 1 for the executor's turn): R57 and R142 say they have no
step. -/
def Obligations.EveryStepAnswersANextState : Prop := ∀ s : State, ∃ t, step s = .next t

/-- R26, with R9, R38, R40, R42, R50, R117, R123 and log 6 (the other fields of Inv): every step keeps the invariant, an
open session keeps the sum of its two counts, and that sum is the count of the DEC_START that opened it (I3). -/
def Obligations.StepKeepsTheInvariant : Prop :=
  ∀ (s t : State), Inv s → step s = .next t →
    Inv t ∧
    (s.dstate ≠ .idle → t.dstate ≠ .idle →
      t.consumed.toNat + t.remain.toNat = s.consumed.toNat + s.remain.toNat) ∧
    (s.dstate = .idle → t.dstate ≠ .idle → ∃ w rest n, s.port = w :: rest ∧ decode w = .ok (.decStart n) ∧
      t.consumed.toNat + t.remain.toNat = n.toNat)

/-- R24, R26: the state after reset meets the invariant, whatever the open depths are (log 4). -/
def Obligations.ResetStateMeetsTheInvariant : Prop := Inv State.reset

/-! ### Whole-machine rules -/

/-- R25, R49, R51, R52: which commands write the node memory, the root, the code table and the staging register; no
command changes the depths, the offered words or the turns. -/
def Obligations.OnlyTheirCommandsWriteTheTables : Prop :=
  ∀ (i : Instr) (s t : State), exec i s = .next t →
    (t.nodes ≠ s.nodes → (∃ a q, i = .wrLeaf a q) ∨ (∃ a l r, i = .wrInternal a l r) ∨ (∃ a, i = .clrNode a) ∨
      i = .clrTree) ∧
    (t.root ≠ s.root → ∃ a, i = .setRoot a) ∧
    (t.codes ≠ s.codes → (∃ q len, i = .wrCode q len) ∨ (∃ q, i = .clrCode q) ∨ i = .clrCodes) ∧
    (t.stage ≠ s.stage → ∃ k data, i = .codeStage k data) ∧
    t.doutDepth = s.doutDepth ∧ t.eoutDepth = s.eoutDepth ∧ t.port = s.port ∧ t.turns = s.turns

/-- R45, R113, R123: a sticky bit and its capture registers, once set, are changed by no command but a CLR_STATUS that
selects the bit. -/
def Obligations.StickyBitsAndCapturesAreKeptUntilCleared : Prop :=
  ∀ (i : Instr) (s t : State), exec i s = .next t →
    (s.cmdErr = true → (∀ arg, i = .clrStatus arg → arg.getLsbD 4 = false) →
      t.cmdErr = true ∧ t.ceCause = s.ceCause ∧ t.ceWord = s.ceWord) ∧
    (s.decErr = true → (∀ arg, i = .clrStatus arg → arg.getLsbD 5 = false) →
      t.decErr = true ∧ t.deInfo = s.deInfo ∧ t.deBit = s.deBit) ∧
    (s.encErr = true → (∀ arg, i = .clrStatus arg → arg.getLsbD 6 = false) →
      t.encErr = true ∧ t.eeInfo = s.eeInfo) ∧
    (s.decDone = true → (∀ arg, i = .clrStatus arg → arg.getLsbD 7 = false) → t.decDone = true) ∧
    (s.encDone = true → (∀ arg, i = .clrStatus arg → arg.getLsbD 8 = false) → t.encDone = true)

/-- R108, R133: what any command does to the decoder's part of the state depends on that part alone, and in an open
session no command but DEC_START, DEC_BITS and ABORT with `ARG[0]` changes it. -/
def Obligations.DecoderDependsOnlyOnItsOwnState : Prop :=
  (∀ (i : Instr) (s u s' u' : State), s.decoderView = u.decoderView → exec i s = .next s' → exec i u = .next u' →
    s'.decoderView = u'.decoderView) ∧
  (∀ (i : Instr) (s t : State), s.dstate ≠ .idle → drivesDecoder i = false → exec i s = .next t →
    t.decoderView = s.decoderView)

/-! ### Tree commands (40_tree.md) -/

/-- R78: while a decode session is open every tree command is rejected with SEQUENCE and changes nothing else; with none
open it executes, and the encoder state does not matter. -/
def Obligations.TreeCommandsNeedAnIdleDecoder : Prop :=
  ∀ (i : Instr) (s : State), isTreeCommand i = true →
    (s.dstate ≠ .idle → Rejects i s .sequence) ∧
    (s.dstate = .idle → ∃ t, exec i s = .next t ∧ t.cmdErr = s.cmdErr ∧
      ∀ e : Session, exec i { s with estate := e } = .next { t with estate := e })

/-- R79, R80, R81: each node write replaces one entry, whatever it held, and changes nothing else. -/
def Obligations.NodeWritesReplaceOneEntry : Prop :=
  ∀ (s : State) (a : NodeAddr), s.dstate = .idle →
    (∀ q, ∃ m, exec (.wrLeaf a q) s = .next { s with nodes := m } ∧
      ∀ b, nodeAt { s with nodes := m } b = if b = a then .leaf q else nodeAt s b) ∧
    (∀ l r, ∃ m, exec (.wrInternal a l r) s = .next { s with nodes := m } ∧
      ∀ b, nodeAt { s with nodes := m } b = if b = a then .internal l r else nodeAt s b) ∧
    (∃ m, exec (.clrNode a) s = .next { s with nodes := m } ∧
      ∀ b, nodeAt { s with nodes := m } b = if b = a then .empty else nodeAt s b)

/-- R82, R83: CLR_TREE empties every entry and leaves the root; SET_ROOT moves the root and leaves the cursor. -/
def Obligations.ClearTreeAndSetRoot : Prop :=
  ∀ s : State, s.dstate = .idle →
    (∃ m, exec .clrTree s = .next { s with nodes := m } ∧ ∀ b, nodeAt { s with nodes := m } b = .empty) ∧
    (∀ a, exec (.setRoot a) s = .next { s with root := a })

/-! ### Code table commands (41_code_table.md) -/

/-- R87: while an encode session is open WR_CODE, CLR_CODE and CLR_CODES are rejected with SEQUENCE; CODE_STAGE is not
checked; the decoder state does not matter to any of them. -/
def Obligations.CodeCommandsNeedAnIdleEncoder : Prop :=
  (∀ (i : Instr) (s : State), isCodeCommand i = true →
    (s.estate ≠ .idle → Rejects i s .sequence) ∧
    (s.estate = .idle → ∃ t, exec i s = .next t ∧ t.cmdErr = s.cmdErr ∧
      ∀ d : Session, exec i { s with dstate := d } = .next { t with dstate := d })) ∧
  (∀ (k : BitVec 4) (data : BitVec 16) (s : State), ∃ g, ∀ d e : Session,
    exec (.codeStage k data) { s with dstate := d, estate := e } =
      .next { s with dstate := d, estate := e, stage := g })

/-- R89: CODE_STAGE writes the 16 bits of its chunk and keeps the other 15 chunks and everything else. -/
def Obligations.CodeStageWritesOneChunk : Prop :=
  ∀ (k : BitVec 4) (data : BitVec 16) (s : State), ∃ g, exec (.codeStage k data) s = .next { s with stage := g } ∧
    ∀ j, g.getLsbD j =
      if 16 * k.toNat ≤ j ∧ j < 16 * k.toNat + 16 then data.getLsbD (j - 16 * k.toNat) else s.stage.getLsbD j

/-- R90, R50: WR_CODE stores its length and the staged bits below it, 0 from it on, in the one entry it names. For
`LEN` = 0, which is ILLEGAL (R72) and no step executes, that an empty code is stored is the model's choice (log 18). -/
def Obligations.WriteCodeStoresTheStagedBits : Prop :=
  ∀ (q : Symbol) (len : BitVec 8) (s : State), s.estate = .idle →
    ∃ m bits, exec (.wrCode q len) s = .next { s with codes := m } ∧
      (∀ r, codeAt { s with codes := m } r = if r = q then .code len bits else codeAt s r) ∧
      ∀ j, bits.getLsbD j = (decide (j < len.toNat) && s.stage.getLsbD j)

/-- R91, R92: CLR_CODE makes one entry invalid, CLR_CODES every entry, and nothing else changes. -/
def Obligations.ClearCodesMakesEntriesInvalid : Prop :=
  ∀ s : State, s.estate = .idle →
    (∀ q, ∃ m, exec (.clrCode q) s = .next { s with codes := m } ∧
      ∀ r, codeAt { s with codes := m } r = if r = q then .invalid else codeAt s r) ∧
    (∃ m, exec .clrCodes s = .next { s with codes := m } ∧ ∀ r, codeAt { s with codes := m } r = .invalid)

/-- R76, R88, R93: LOAD_CODE gives a symbol exactly the path it is given, whatever `stage` held before. -/
def Obligations.LoadCodeStoresThePath : Prop :=
  ∀ (q : Symbol) (path : List Bool) (s : State), 1 ≤ path.length → path.length ≤ 255 → s.estate = .idle →
    ∃ m g, execAll (loadCode q path) s = .next { s with codes := m, stage := g } ∧
      ∀ r, codePath { s with codes := m, stage := g } r = if r = q then some path else codePath s r

/-! ### Encoder commands (42_encoder.md) -/

/-- R99: ENC_START opens a session with no bits counted, and is rejected while one is open. -/
def Obligations.EncStartOpensASession : Prop :=
  ∀ s : State,
    (s.estate = .idle → exec .encStart s = .next { s with estate := .active, ebits := 0#28 }) ∧
    (s.estate ≠ .idle → Rejects .encStart s .sequence)

/-- R100: with a session open and a code that fits, ENC_SYM pushes the code and counts its bits; a total of exactly
`CNT_MAX` fits. With none open it is rejected; in a FAULTED session it has no effect. -/
def Obligations.EncSymPushesTheCode : Prop :=
  ∀ (q : Symbol) (s : State),
    (s.estate = .idle → Rejects (.encSym q) s .sequence) ∧
    (s.estate = .faulted → exec (.encSym q) s = .next s) ∧
    (∀ len bits, s.estate = .active → codeAt s q = .code len bits → s.ebits.toNat + len.toNat ≤ 2 ^ 28 - 1 →
      ∃ n : Count, exec (.encSym q) s = .next { s with eout := s.eout ++ [.cw len bits], ebits := n } ∧
        n.toNat = s.ebits.toNat + len.toNat)

/-- R122, R100, R126: a symbol with no code raises MISSING_SYMBOL and a total past `CNT_MAX` BITCOUNT_OVERFLOW; each ends
the session with END, keeps `ebits`, and records the first error. -/
def Obligations.EncSymDataErrorsEndTheSession : Prop :=
  ∀ (q : Symbol) (s : State) (st : Status), s.estate = .active →
    ((codeAt s q = .invalid ∧ st = .missingSymbol) ∨
      (∃ len bits, codeAt s q = .code len bits ∧ 2 ^ 28 - 1 < s.ebits.toNat + len.toNat ∧ st = .bitcountOverflow)) →
    ∃ info : BitVec 12, exec (.encSym q) s = .next { s with
        eout := s.eout ++ [.done st s.ebits]
        encDone := true
        encErr := true
        eeInfo := if s.encErr then s.eeInfo else info
        estate := .faulted } ∧
      info.extractLsb' 0 4 = st.code ∧ info.extractLsb' 4 8 = q

/-- R101: ENC_END closes an ACTIVE session with END(OK, ebits), a FAULTED one with no token, and is rejected with none
open. -/
def Obligations.EncEndClosesTheSession : Prop :=
  ∀ s : State,
    (s.estate = .idle → Rejects .encEnd s .sequence) ∧
    (s.estate = .active → exec .encEnd s =
      .next { s with eout := s.eout ++ [.done .ok s.ebits], encDone := true, estate := .idle }) ∧
    (s.estate = .faulted → exec .encEnd s = .next { s with estate := .idle })

/-- R102, R125, R118: an encode session pushes CW tokens and then exactly one END. It is OK exactly when every symbol has
a code and the total fits, and then the tokens are the symbols' codes in order and the count is their total length. -/
def Obligations.EncodeSessionPushesItsCodesAndOneEnd : Prop :=
  ∀ (syms : List Symbol) (s : State), s.estate = .idle →
    ∃ (t : State) (cws : List EToken) (st : Status) (m : Count),
      execAll (encodeSession syms) s = .next t ∧
      t.eout = s.eout ++ cws ++ [.done st m] ∧ (∀ c ∈ cws, ∃ len bits, c = .cw len bits) ∧
      t.estate = .idle ∧ t.encDone = true ∧ t.decoderView = s.decoderView ∧
      (st = .ok ∨ st = .missingSymbol ∨ st = .bitcountOverflow) ∧
      (st = .ok ↔ (∀ q ∈ syms, codePath s q ≠ none) ∧ (codedBits s syms).length ≤ 2 ^ 28 - 1) ∧
      (st = .ok → cws.map some = syms.map (codeToken s) ∧ m.toNat = (codedBits s syms).length ∧
        t.encErr = s.encErr) ∧
      (st ≠ .ok → t.encErr = true)

/-! ### Decoder commands (43_decoder.md) -/

/-- R104, R118: DEC_START of 0 bits ends at once with END(OK, 0), of more bits it opens a session, and it is rejected
while one is open. -/
def Obligations.DecStartOpensASession : Prop :=
  ∀ (n : Count) (s : State),
    (s.dstate = .idle → n = 0#28 → exec (.decStart n) s = .next { s with
      remain := n, consumed := 0#28, cur := s.root, mid := false, symcount := 0#28
      dout := s.dout ++ [.done .ok 0#28], decDone := true }) ∧
    (s.dstate = .idle → n ≠ 0#28 → exec (.decStart n) s = .next { s with
      remain := n, consumed := 0#28, cur := s.root, mid := false, symcount := 0#28, dstate := .active }) ∧
    (s.dstate ≠ .idle → Rejects (.decStart n) s .sequence)

/-- R105, R126: DEC_BITS with no session is rejected with SEQUENCE, and with more bits than the session expects with
OVERRUN; neither consumes a bit. -/
def Obligations.DecBitsIsRejectedWhole : Prop :=
  ∀ (k : BitVec 4) (data : BitVec 16) (s : State),
    (s.dstate = .idle → Rejects (.decBits k data) s .sequence) ∧
    (s.dstate ≠ .idle → s.remain.toNat < k.toNat + 1 → Rejects (.decBits k data) s .overrun)

/-- R105, R108: a DEC_BITS the session has room for answers a next state, the one its bits give as one-bit DEC_BITS
commands in order. -/
def Obligations.DecBitsIsItsBitsOneByOne : Prop :=
  ∀ (k : BitVec 4) (data : BitVec 16) (s : State), s.dstate ≠ .idle → k.toNat + 1 ≤ s.remain.toNat →
    ∃ t, exec (.decBits k data) s = .next t ∧ execAll ((deliveredBits k data).map decBit) s = .next t

/-- R106: one bit of an ACTIVE session, not its last, at an INTERNAL cursor: to a LEAF it emits the symbol and goes back
to the root, to an INTERNAL node it moves the cursor. At a LEAF cursor, the degenerate tree, either bit emits. -/
def Obligations.OneBitWalksTheTree : Prop :=
  ∀ (b : Bool) (s : State), s.dstate = .active → 2 ≤ s.remain.toNat →
    (∀ l r q, nodeAt s s.cur = .internal l r → nodeAt s (if b then r else l) = .leaf q →
      exec (decBit b) s = .next { s with
        consumed := s.consumed + 1#28, remain := s.remain - 1#28, dout := s.dout ++ [.sym q]
        symcount := s.symcount + 1#28, cur := s.root, mid := false }) ∧
    (∀ l r l' r', nodeAt s s.cur = .internal l r → nodeAt s (if b then r else l) = .internal l' r' →
      exec (decBit b) s = .next { s with
        consumed := s.consumed + 1#28, remain := s.remain - 1#28, cur := if b then r else l, mid := true }) ∧
    (∀ q, nodeAt s s.cur = .leaf q →
      exec (decBit b) s = .next { s with
        consumed := s.consumed + 1#28, remain := s.remain - 1#28, dout := s.dout ++ [.sym q]
        symcount := s.symcount + 1#28, cur := s.root, mid := false })

/-- R121, R106, R107: what each of the three data errors records and pushes. INVALID_CODE on a bit before the last leaves
the session FAULTED; TRUNCATED_STREAM comes on the last bit, which leaves it IDLE. -/
def Obligations.DecodeDataErrorsAreRecordedAndEndTheOutput : Prop :=
  ∀ (b : Bool) (s : State), s.dstate = .active →
    -- a bit on an EMPTY root
    (2 ≤ s.remain.toNat → nodeAt s s.cur = .empty →
      ∃ info : BitVec 24, exec (decBit b) s = .next { s with
          consumed := s.consumed + 1#28, remain := s.remain - 1#28
          dout := s.dout ++ [.done .invalidCode s.symcount], decDone := true, decErr := true
          deInfo := if s.decErr then s.deInfo else info, deBit := if s.decErr then s.deBit else s.consumed
          dstate := .faulted } ∧
        info.extractLsb' 0 4 = 1#4 ∧ info.extractLsb' 4 1 = 0#1 ∧ info.extractLsb' 5 9 = s.cur ∧
        info.extractLsb' 14 9 = 0#9 ∧ info.extractLsb' 23 1 = BitVec.ofBool b) ∧
    -- a bit selecting an EMPTY child
    (∀ l r, 2 ≤ s.remain.toNat → nodeAt s s.cur = .internal l r → nodeAt s (if b then r else l) = .empty →
      ∃ info : BitVec 24, exec (decBit b) s = .next { s with
          consumed := s.consumed + 1#28, remain := s.remain - 1#28
          dout := s.dout ++ [.done .invalidCode s.symcount], decDone := true, decErr := true
          deInfo := if s.decErr then s.deInfo else info, deBit := if s.decErr then s.deBit else s.consumed
          dstate := .faulted } ∧
        info.extractLsb' 0 4 = 1#4 ∧ info.extractLsb' 4 1 = 1#1 ∧ info.extractLsb' 5 9 = s.cur ∧
        info.extractLsb' 14 9 = (if b then r else l) ∧ info.extractLsb' 23 1 = BitVec.ofBool b) ∧
    -- the last bit moves the cursor to an INTERNAL node
    (∀ l r l' r', s.remain = 1#28 → nodeAt s s.cur = .internal l r → nodeAt s (if b then r else l) = .internal l' r' →
      ∃ info : BitVec 24, exec (decBit b) s = .next { s with
          consumed := s.consumed + 1#28, remain := 0#28, cur := if b then r else l, mid := true
          dout := s.dout ++ [.done .truncatedStream s.symcount], decDone := true, decErr := true
          deInfo := if s.decErr then s.deInfo else info, deBit := if s.decErr then s.deBit else s.consumed + 1#28
          dstate := .idle } ∧
        info.extractLsb' 0 4 = 2#4 ∧ info.extractLsb' 4 1 = 0#1 ∧ info.extractLsb' 5 9 = (if b then r else l) ∧
        info.extractLsb' 14 9 = 0#9 ∧ info.extractLsb' 23 1 = 0#1)

/-- R107, R121, R126: on a session's last bit: a symbol is followed by END(OK), an INVALID_CODE is reported and recorded
as on any other bit and TRUNCATED_STREAM is not, and a FAULTED session ends with nothing more pushed. The session is IDLE
afterwards. -/
def Obligations.LastBitEndsTheSession : Prop :=
  ∀ (b : Bool) (s : State), s.remain = 1#28 →
    (∀ q, s.dstate = .active →
      (nodeAt s s.cur = .leaf q ∨ ∃ l r, nodeAt s s.cur = .internal l r ∧ nodeAt s (if b then r else l) = .leaf q) →
      exec (decBit b) s = .next { s with
        consumed := s.consumed + 1#28, remain := 0#28, symcount := s.symcount + 1#28, cur := s.root, mid := false
        dout := s.dout ++ [.sym q, .done .ok (s.symcount + 1#28)], decDone := true, dstate := .idle }) ∧
    (s.dstate = .active → nodeAt s s.cur = .empty →
      ∃ info : BitVec 24, exec (decBit b) s = .next { s with
          consumed := s.consumed + 1#28, remain := 0#28
          dout := s.dout ++ [.done .invalidCode s.symcount], decDone := true, decErr := true
          deInfo := if s.decErr then s.deInfo else info, deBit := if s.decErr then s.deBit else s.consumed
          dstate := .idle } ∧
        info.extractLsb' 0 4 = 1#4 ∧ info.extractLsb' 4 1 = 0#1 ∧ info.extractLsb' 5 9 = s.cur ∧
        info.extractLsb' 14 9 = 0#9 ∧ info.extractLsb' 23 1 = BitVec.ofBool b) ∧
    (∀ l r, s.dstate = .active → nodeAt s s.cur = .internal l r → nodeAt s (if b then r else l) = .empty →
      ∃ info : BitVec 24, exec (decBit b) s = .next { s with
          consumed := s.consumed + 1#28, remain := 0#28
          dout := s.dout ++ [.done .invalidCode s.symcount], decDone := true, decErr := true
          deInfo := if s.decErr then s.deInfo else info, deBit := if s.decErr then s.deBit else s.consumed
          dstate := .idle } ∧
        info.extractLsb' 0 4 = 1#4 ∧ info.extractLsb' 4 1 = 1#1 ∧ info.extractLsb' 5 9 = s.cur ∧
        info.extractLsb' 14 9 = (if b then r else l) ∧ info.extractLsb' 23 1 = BitVec.ofBool b) ∧
    (s.dstate = .faulted → exec (decBit b) s =
      .next { s with consumed := s.consumed + 1#28, remain := 0#28, dstate := .idle })

/-- R106, R107, R121: a FAULTED session counts and discards the bits of a DEC_BITS, and ends when its count runs out. -/
def Obligations.FaultedSessionDiscardsItsBits : Prop :=
  ∀ (k : BitVec 4) (data : BitVec 16) (s : State), s.dstate = .faulted → k.toNat + 1 ≤ s.remain.toNat →
    exec (.decBits k data) s = .next { s with
      consumed := s.consumed + BitVec.ofNat 28 (k.toNat + 1)
      remain := s.remain - BitVec.ofNat 28 (k.toNat + 1)
      dstate := if s.remain.toNat = k.toNat + 1 then .idle else .faulted }

/-- R110, R125, R103: whatever the node memory holds, a session of `n` bits, however they are split into DEC_BITS, ends
after exactly `n` bits, having pushed SYM tokens and then exactly one END that counts them. -/
def Obligations.DecodeSessionEndsWithOneEnd : Prop :=
  ∀ (n : Count) (cs : List (BitVec 4 × BitVec 16)) (s : State), s.dstate = .idle → (sessionBits cs).length = n.toNat →
    ∃ (t : State) (syms : List Symbol) (st : Status),
      execAll (decodeSession n cs) s = .next t ∧
      t.dout = s.dout ++ syms.map .sym ++ [.done st (BitVec.ofNat 28 syms.length)] ∧ syms.length ≤ n.toNat ∧
      t.dstate = .idle ∧ t.remain = 0#28 ∧ t.consumed = n ∧ t.symcount.toNat = syms.length ∧ t.decDone = true ∧
      (st = .ok ∨ st = .invalidCode ∨ st = .truncatedStream) ∧
      (st = .ok → t.decErr = s.decErr) ∧ (st ≠ .ok → t.decErr = true)

/-- R109 on a tree the node memory holds: the session pushes what HTC §4.5 returns for the same bits and tree, then
END(OK), or END(TRUNCATED_STREAM) where HTC §4.5 fails because the bits ran out. The degenerate tree is one. -/
def Obligations.DecoderAgreesWithTheReference : Prop :=
  ∀ (tree : HuffTree) (n : Count) (cs : List (BitVec 4 × BitVec 16)) (s : State), s.dstate = .idle →
    Represents s s.root tree → (sessionBits cs).length = n.toNat →
    ∃ t, execAll (decodeSession n cs) s = .next t ∧
      t.dout = s.dout ++ (htcDecode tree tree (sessionBits cs)).1.map .sym ++
        [.done (if (htcDecode tree tree (sessionBits cs)).2 then .truncatedStream else .ok)
          (BitVec.ofNat 28 (htcDecode tree tree (sessionBits cs)).1.length)]

/-- R109: on a well-formed tree (R86) no session ends in INVALID_CODE. -/
def Obligations.WellFormedTreesNeverGiveInvalidCode : Prop :=
  ∀ (n : Count) (cs : List (BitVec 4 × BitVec 16)) (s t : State), s.dstate = .idle → TreeWellFormed s →
    (sessionBits cs).length = n.toNat → execAll (decodeSession n cs) s = .next t →
    ∃ (syms : List Symbol) (st : Status) (k : Count),
      t.dout = s.dout ++ syms.map .sym ++ [.done st k] ∧ st ≠ .invalidCode

/-- R85, R106: on a LEAF root every bit, 0 or 1, gives the root's symbol, and the session ends in OK. -/
def Obligations.DegenerateTreeGivesItsSymbolForEveryBit : Prop :=
  ∀ (q : Symbol) (n : Count) (cs : List (BitVec 4 × BitVec 16)) (s : State), s.dstate = .idle →
    nodeAt s s.root = .leaf q → (sessionBits cs).length = n.toNat →
    ∃ t, execAll (decodeSession n cs) s = .next t ∧
      t.dout = s.dout ++ List.replicate n.toNat (.sym q) ++ [.done .ok n] ∧ t.decErr = s.decErr

/-! ### System commands and the interrupt (44_system.md, 60_exceptions.md) -/

/-- R111, R112: NOP changes nothing; SET_CTRL writes the two interrupt enables. -/
def Obligations.NopAndSetCtrl : Prop :=
  ∀ s : State, exec .nop s = .next s ∧
    ∀ arg : BitVec 16, exec (.setCtrl arg) s = .next { s with ieDone := arg.getLsbD 0, ieErr := arg.getLsbD 1 }

/-- R113: CLR_STATUS clears the bits of `ARG[8:4]` that are 1, with the capture registers of the error bits. -/
def Obligations.ClrStatusClearsTheSelectedBits : Prop :=
  ∀ (arg : BitVec 16) (s : State), exec (.clrStatus arg) s = .next { s with
    cmdErr := s.cmdErr && !arg.getLsbD 4
    ceCause := if arg.getLsbD 4 then 0#4 else s.ceCause
    ceWord := if arg.getLsbD 4 then 0#32 else s.ceWord
    decErr := s.decErr && !arg.getLsbD 5
    deInfo := if arg.getLsbD 5 then 0#24 else s.deInfo
    deBit := if arg.getLsbD 5 then 0#28 else s.deBit
    encErr := s.encErr && !arg.getLsbD 6
    eeInfo := if arg.getLsbD 6 then 0#12 else s.eeInfo
    decDone := s.decDone && !arg.getLsbD 7
    encDone := s.encDone && !arg.getLsbD 8 }

/-- R114: ABORT ends the sessions it selects, with END(ABORTED) for an ACTIVE one, and sets no error bit. -/
def Obligations.AbortCancelsTheSelectedSessions : Prop :=
  ∀ (arg : BitVec 16) (s : State), exec (.abort arg) s = .next { s with
    dout := if arg.getLsbD 0 && s.dstate == .active then s.dout ++ [.done .aborted s.symcount] else s.dout
    decDone := s.decDone || (arg.getLsbD 0 && s.dstate == .active)
    dstate := if arg.getLsbD 0 then .idle else s.dstate
    remain := if arg.getLsbD 0 then 0#28 else s.remain
    eout := if arg.getLsbD 1 && s.estate == .active then s.eout ++ [.done .aborted s.ebits] else s.eout
    encDone := s.encDone || (arg.getLsbD 1 && s.estate == .active)
    estate := if arg.getLsbD 1 then .idle else s.estate }

/-- R129, R130: the interrupt line, in the signal and in STATUS.IRQ. -/
def Obligations.IrqIsTheEnabledStickyBits : Prop :=
  ∀ s : State,
    ((outputs false s).irq = true ↔
      (s.ieDone = true ∧ (s.decDone = true ∨ s.encDone = true)) ∨
      (s.ieErr = true ∧ (s.cmdErr = true ∨ s.decErr = true ∨ s.encErr = true))) ∧
    (readRegister s 0x1#4).getLsbD 9 = (outputs false s).irq

/-! ### The register port and the wire format (10_state.md, 20_memory.md) -/

/-- R30: the fields of STATUS at a command boundary, BUSY inside a command, and the value after reset. -/
def Obligations.StatusRegisterFields : Prop :=
  ∀ s : State,
    (readRegister s 0x1#4).extractLsb' 0 2 =
      (match s.dstate with | .idle => 0#2 | .active => 1#2 | .faulted => 2#2) ∧
    (readRegister s 0x1#4).extractLsb' 2 2 =
      (match s.estate with | .idle => 0#2 | .active => 1#2 | .faulted => 2#2) ∧
    (readRegister s 0x1#4).getLsbD 4 = s.cmdErr ∧ (readRegister s 0x1#4).getLsbD 5 = s.decErr ∧
    (readRegister s 0x1#4).getLsbD 6 = s.encErr ∧ (readRegister s 0x1#4).getLsbD 7 = s.decDone ∧
    (readRegister s 0x1#4).getLsbD 8 = s.encDone ∧ (readRegister s 0x1#4).getLsbD 9 = irq s ∧
    (readRegister s 0x1#4).getLsbD 10 = false ∧ (readRegister s 0x1#4).extractLsb' 11 21 = 0#21 ∧
    (∀ k, (readRegisterBusy k s 0x1#4).getLsbD 10 = true) ∧ readRegister State.reset 0x1#4 = 0#32

/-- R29, R31 to R37, R43, R44: the registers that show one field each, the FIFO counts and the depths, and their reset
values. The counts and depths are below 65536 (R44, R26 (I7)), which Inv says. -/
def Obligations.RegistersShowTheirFields : Prop :=
  (∀ idx ∈ [0x2#4, 0x3#4, 0x4#4, 0x5#4, 0x6#4, 0x7#4, 0x8#4, 0xE#4], readRegister State.reset idx = 0#32) ∧
  ∀ s : State, Inv s →
    readRegister s 0x0#4 = 0x48554601#32 ∧
    ((readRegister s 0x2#4).getLsbD 0 = s.ieDone ∧ (readRegister s 0x2#4).getLsbD 1 = s.ieErr ∧
      (readRegister s 0x2#4).extractLsb' 2 30 = 0#30) ∧
    (readRegister s 0x3#4).toNat = s.root.toNat ∧
    (readRegister s 0x4#4).toNat = s.remain.toNat ∧
    (readRegister s 0x5#4).toNat = s.consumed.toNat ∧
    ((readRegister s 0x6#4).extractLsb' 0 9 = s.cur ∧ (readRegister s 0x6#4).extractLsb' 9 22 = 0#22 ∧
      (readRegister s 0x6#4).getLsbD 31 = s.mid) ∧
    (readRegister s 0x7#4).toNat = s.symcount.toNat ∧
    (readRegister s 0x8#4).toNat = s.ebits.toNat ∧
    (readRegister s 0xE#4).toNat = s.dout.length + 65536 * s.eout.length ∧
    (readRegister s 0xF#4).toNat = s.doutDepth + 65536 * s.eoutDepth

/-- R38, R39, R40, R42: the capture registers, and the values they can hold. -/
def Obligations.CaptureRegistersShowTheFirstError : Prop :=
  ∀ s : State, Inv s →
    ((readRegister s 0x9#4).toNat = s.ceCause.toNat ∧
      readRegister s 0x9#4 ∈ [0#32, 8#32, 9#32, 10#32] ∧ (readRegister s 0x9#4 = 0#32 ↔ s.cmdErr = false)) ∧
    readRegister s 0xA#4 = s.ceWord ∧
    ((readRegister s 0xB#4).toNat = s.deInfo.toNat ∧ (readRegister s 0xB#4).extractLsb' 24 8 = 0#8 ∧
      (s.decErr = true → (readRegister s 0xB#4).extractLsb' 0 4 ∈ [1#4, 2#4])) ∧
    (readRegister s 0xC#4).toNat = s.deBit.toNat ∧
    ((readRegister s 0xD#4).toNat = s.eeInfo.toNat ∧ (readRegister s 0xD#4).extractLsb' 12 20 = 0#20 ∧
      (s.encErr = true → (readRegister s 0xD#4).extractLsb' 0 4 ∈ [3#4, 4#4]))

/-- R56: the wire format of the four kinds of tokens, and the two examples. -/
def Obligations.TokensOnTheWire : Prop :=
  (∀ q : Symbol, (DToken.sym q).kind = 0#1 ∧ (DToken.sym q).data.extractLsb' 0 8 = q ∧
    (DToken.sym q).data.extractLsb' 8 24 = 0#24) ∧
  (∀ (st : Status) (n : Count), (DToken.done st n).kind = 1#1 ∧ (DToken.done st n).data.extractLsb' 28 4 = st.code ∧
    (DToken.done st n).data.extractLsb' 0 28 = n) ∧
  (∀ (len : BitVec 8) (bits : CodeBits), (EToken.cw len bits).kind = 0#1 ∧ (EToken.cw len bits).len = len ∧
    (EToken.cw len bits).bits = bits) ∧
  (∀ (st : Status) (n : Count), (EToken.done st n).kind = 1#1 ∧ (EToken.done st n).len = 0#8 ∧
    (EToken.done st n).bits.extractLsb' 28 4 = st.code ∧ (EToken.done st n).bits.extractLsb' 0 28 = n ∧
    (EToken.done st n).bits.extractLsb' 32 223 = 0#223) ∧
  (DToken.sym 0x61#8).data = 0x00000061#32 ∧ (DToken.done .ok 11#28).data = 0x0000000B#32

/-- R21, R140: in a BUSY window `ID`, `PARAM` and `STATUS.BUSY` are defined, whatever the free values are (log 9). -/
def Obligations.BusyWindowKeepsIdParamAndBusy : Prop :=
  ∀ (k : Nat) (s : State),
    readRegisterBusy k s 0x0#4 = 0x48554601#32 ∧ readRegisterBusy k s 0xF#4 = readRegister s 0xF#4 ∧
    (readRegisterBusy k s 0x1#4).getLsbD 10 = true

/-! ### Trees, tables and the round trip -/

/-- R96: with a consistent tree and table, symbols that all have codes and a total that fits: (1) encoding pushes their
codes and END(OK, m); (2) decoding the concatenated bits, however split, pushes the symbols and END(OK, k), with no
error. -/
def Obligations.EncodeThenDecodeGivesTheSymbolsBack : Prop :=
  ∀ (s : State) (syms : List Symbol), Inv s → Consistent s → s.dstate = .idle → s.estate = .idle →
    (∀ q ∈ syms, codePath s q ≠ none) → (codedBits s syms).length ≤ 2 ^ 28 - 1 →
    (∃ t cws, execAll (encodeSession syms) s = .next t ∧ cws.map some = syms.map (codeToken s) ∧
      t.eout = s.eout ++ cws ++ [.done .ok (BitVec.ofNat 28 (codedBits s syms).length)] ∧ t.encErr = s.encErr) ∧
    (∀ cs, sessionBits cs = codedBits s syms →
      ∃ t, execAll (decodeSession (BitVec.ofNat 28 (codedBits s syms).length) cs) s = .next t ∧
        t.dout = s.dout ++ syms.map .sym ++ [.done .ok (BitVec.ofNat 28 syms.length)] ∧ t.decErr = s.decErr)

/-- R97: under an INTERNAL root the codes of a consistent table are prefix-free. -/
def Obligations.CodesArePrefixFree : Prop :=
  ∀ (s : State) (q q' : Symbol) (p p' : List Bool) (l r : NodeAddr), Consistent s → nodeAt s s.root = .internal l r →
    codePath s q = some p → codePath s q' = some p' → q ≠ q' → ¬ p <+: p'

/-- R84, R94, R93, R95: loading a tree under any one-to-one addresses, and the table derived from it, leaves a node
memory that holds the tree at the root and a consistent table. -/
def Obligations.LoadingATreeAndItsTableIsConsistent : Prop :=
  ∀ (addr : List Bool → NodeAddr) (tree : HuffTree) (s : State), Loadable addr tree → s.dstate = .idle →
    s.estate = .idle →
    ∃ t, execAll (loadTree addr tree ++ loadTable tree) s = .next t ∧ t.root = addr [] ∧ Represents t t.root tree ∧
      Consistent t ∧ t.dout = s.dout ∧ t.eout = s.eout ∧ t.cmdErr = s.cmdErr ∧ t.dstate = .idle ∧ t.estate = .idle

/-- R76: the DEC_BITS commands of DEC_STREAM are legal and deliver exactly the bits given, in order. -/
def Obligations.DecStreamDeliversItsBits : Prop :=
  ∀ bits : List Bool, ∃ cs : List (BitVec 4 × BitVec 16),
    decStreamBits bits = cs.map (fun c => .decBits c.1 c.2) ∧ sessionBits cs = bits ∧
    ∀ c ∈ cs, (Instr.decBits c.1 c.2).wellFormed = true

/-- R75, R76: for every line that has an operand: one that does not fit its field is refused, DEC_BITS takes 1 to 16 bits
and LOAD_CODE a path of 1 to 255, and a line that is not refused is its command, or its pseudo-command's expansion, with
the operands in the fields of R75. Illegal words that fit their fields are assembled (log 20). -/
def Obligations.AssemblerRefusesOperandsThatDoNotFit : Prop :=
  (∀ a sym : Nat, assemble (.wrLeaf a sym) =
    if a < 512 ∧ sym < 256 then some [.wrLeaf (BitVec.ofNat 9 a) (BitVec.ofNat 8 sym)] else none) ∧
  (∀ a l r : Nat, assemble (.wrInternal a l r) =
    if a < 512 ∧ l < 512 ∧ r < 512 then some [.wrInternal (BitVec.ofNat 9 a) (BitVec.ofNat 9 l) (BitVec.ofNat 9 r)]
    else none) ∧
  (∀ a : Nat, assemble (.clrNode a) = if a < 512 then some [.clrNode (BitVec.ofNat 9 a)] else none) ∧
  (∀ a : Nat, assemble (.setRoot a) = if a < 512 then some [.setRoot (BitVec.ofNat 9 a)] else none) ∧
  (∀ k data : Nat, assemble (.codeStage k data) =
    if k < 16 ∧ data < 65536 then some [.codeStage (BitVec.ofNat 4 k) (BitVec.ofNat 16 data)] else none) ∧
  (∀ sym len : Nat, assemble (.wrCode sym len) =
    if sym < 256 ∧ len < 256 then some [.wrCode (BitVec.ofNat 8 sym) (BitVec.ofNat 8 len)] else none) ∧
  (∀ sym : Nat, assemble (.clrCode sym) = if sym < 256 then some [.clrCode (BitVec.ofNat 8 sym)] else none) ∧
  (∀ sym : Nat, assemble (.encSym sym) = if sym < 256 then some [.encSym (BitVec.ofNat 8 sym)] else none) ∧
  (∀ n : Nat, assemble (.decStart n) = if n < 2 ^ 28 then some [.decStart (BitVec.ofNat 28 n)] else none) ∧
  (∀ n data : Nat, assemble (.decBits n data) =
    if 1 ≤ n ∧ n ≤ 16 ∧ data < 65536 then some [.decBits (BitVec.ofNat 4 (n - 1)) (BitVec.ofNat 16 data)] else none) ∧
  (∀ arg : Nat, assemble (.setCtrl arg) = if arg < 65536 then some [.setCtrl (BitVec.ofNat 16 arg)] else none) ∧
  (∀ mask : Nat, assemble (.clrStatus mask) =
    if mask < 65536 then some [.clrStatus (BitVec.ofNat 16 mask)] else none) ∧
  (∀ mask : Nat, assemble (.abort mask) = if mask < 65536 then some [.abort (BitVec.ofNat 16 mask)] else none) ∧
  (∀ b : Bool, assemble (.decBit b) = some [.decBits 0#4 (if b then 1#16 else 0#16)]) ∧
  (∀ bits : List Bool, assemble (.decStream bits) =
    if bits.length < 2 ^ 28 then some (.decStart (BitVec.ofNat 28 bits.length) :: decStreamBits bits) else none) ∧
  (∀ (sym : Nat) (path : List Bool), assemble (.loadCode sym path) =
    if sym < 256 ∧ 1 ≤ path.length ∧ path.length ≤ 255 then some (loadCode (BitVec.ofNat 8 sym) path) else none) ∧
  assemble .clrAllStatus = some [.clrStatus 0x1F0#16] ∧ assemble .abortAll = some [.abort 3#16]

/-- R117: the code of each status, and the codes that are never produced; and, as numbers, what the capture registers and
an END token show after a command that raises ILLEGAL, SEQUENCE, OVERRUN, MISSING_SYMBOL, BITCOUNT_OVERFLOW or ABORTED.
-/
def Obligations.StatusCodesAreThoseOfTheTable : Prop :=
  (Status.ok.code = 0#4 ∧ Status.invalidCode.code = 1#4 ∧ Status.truncatedStream.code = 2#4 ∧
    Status.missingSymbol.code = 3#4 ∧ Status.bitcountOverflow.code = 4#4 ∧ Status.aborted.code = 7#4 ∧
    Status.illegal.code = 8#4 ∧ Status.sequence.code = 9#4 ∧ Status.overrun.code = 10#4 ∧
    ∀ st : Status, st.code ∉ [5#4, 6#4, 11#4, 12#4, 13#4, 14#4, 15#4]) ∧
  (∀ (w : Word) (s : State), legal w = false → s.cmdErr = false →
    ∃ t, executeWord w s = .next t ∧ readRegister t 0x9#4 = 8#32) ∧
  (∀ (q : Symbol) (s : State), s.estate = .idle → s.cmdErr = false →
    ∃ t, exec (.encSym q) s = .next t ∧ readRegister t 0x9#4 = 9#32) ∧
  (∀ (k : BitVec 4) (data : BitVec 16) (s : State), s.dstate ≠ .idle → s.remain.toNat < k.toNat + 1 → s.cmdErr = false →
    ∃ t, exec (.decBits k data) s = .next t ∧ readRegister t 0x9#4 = 10#32) ∧
  (∀ (q : Symbol) (s : State), s.estate = .active → s.encErr = false → codeAt s q = .invalid →
    ∃ t, exec (.encSym q) s = .next t ∧ (readRegister t 0xD#4).extractLsb' 0 4 = 3#4) ∧
  (∀ (q : Symbol) (s : State) (len : BitVec 8) (bits : CodeBits), s.estate = .active → s.encErr = false →
    codeAt s q = .code len bits → 2 ^ 28 - 1 < s.ebits.toNat + len.toNat →
    ∃ t, exec (.encSym q) s = .next t ∧ (readRegister t 0xD#4).extractLsb' 0 4 = 4#4) ∧
  (∀ (arg : BitVec 16) (s : State), s.dstate = .active → arg.getLsbD 0 = true →
    ∃ t tok, exec (.abort arg) s = .next t ∧ t.dout = s.dout ++ [tok] ∧ tok.kind = 1#1 ∧
      tok.data.extractLsb' 28 4 = 7#4)
end

