-- ==== Sys2Proof/Laws/Decode.lean ====
section
/-! SUPPORT. Reading a field of a word put together from fields, and what a field of a word says of its masks. -/

namespace Sys2Proof

/-- A range of bits inside a field is that range of the field. -/
theorem extract_put_within {n : Nat} (p q m : Nat) (v : BitVec n) (h1 : p ≤ q) (h2 : q + m ≤ p + n) (h3 : p + n ≤ 32) :
    (put p v).extractLsb' q m = v.extractLsb' (q - p) m := by
  apply BitVec.eq_of_getLsbD_eq
  intro i hi
  simp only [put, BitVec.getLsbD_extractLsb', BitVec.getLsbD_shiftLeft, BitVec.getLsbD_setWidth]
  have h4 : ¬ q + i < p := by omega
  have h5 : q + i < 32 := by omega
  have h6 : q + i - p < 32 := by omega
  simp [hi, h4, h5, h6, show q - p + i = q + i - p by omega]

/-- A field read where it was put is the field. -/
theorem extract_put_same {n : Nat} (p : Nat) (v : BitVec n) (h : p + n ≤ 32) : (put p v).extractLsb' p n = v := by
  rw [extract_put_within p p n v (Nat.le_refl p) (Nat.le_refl _) h]
  simp

/-- A range of bits that shares none with a field reads 0. -/
theorem extract_put_disjoint {n : Nat} (p q m : Nat) (v : BitVec n) (h : q + m ≤ p ∨ p + n ≤ q) :
    (put p v).extractLsb' q m = 0#m := by
  apply BitVec.eq_of_getLsbD_eq
  intro i hi
  simp only [put, BitVec.getLsbD_extractLsb', BitVec.getLsbD_shiftLeft, BitVec.getLsbD_setWidth, BitVec.getLsbD_zero]
  rcases h with h | h
  · simp [show q + i < p by omega]
  · simp [BitVec.getLsbD_of_ge v (q + i - p) (by omega)]

/-- Fields side by side are read one at a time. -/
theorem extract_or (a b : Word) (q m : Nat) :
    (a ||| b).extractLsb' q m = a.extractLsb' q m ||| b.extractLsb' q m := by
  apply BitVec.eq_of_getLsbD_eq
  intro i hi
  simp [hi]

/-- A word is its bits from `q` up and its bits below `q`, put down side by side. -/
theorem split_word (w : Word) (q : Nat) (hq : q ≤ 32) :
    w = put q (w.extractLsb' q (32 - q)) ||| put 0 (w.extractLsb' 0 q) := by
  apply BitVec.eq_of_getLsbD_eq
  intro i hi
  simp only [put, BitVec.getLsbD_or, BitVec.getLsbD_extractLsb', BitVec.getLsbD_shiftLeft, BitVec.getLsbD_setWidth]
  by_cases h : i < q
  · simp [h, hi]
  · simp [h, hi, show i - q < 32 - q by omega, show i - q < 32 by omega, show q + (i - q) = i by omega]

/-- A field put down is its upper part and its lower part put down. -/
theorem split_put {n : Nat} (p q : Nat) (v : BitVec n) (hq : q ≤ n) (hp : p + n ≤ 32) :
    put p v = put (p + q) (v.extractLsb' q (n - q)) ||| put p (v.extractLsb' 0 q) := by
  apply BitVec.eq_of_getLsbD_eq
  intro i hi
  simp only [put, BitVec.getLsbD_or, BitVec.getLsbD_extractLsb', BitVec.getLsbD_shiftLeft, BitVec.getLsbD_setWidth]
  by_cases h : i < p
  · simp [h, show i < p + q by omega]
  · by_cases h2 : i < p + q
    · simp [h, h2, hi, show i - p < q by omega, show i - p < 32 by omega]
    · by_cases h3 : i < p + n
      · simp [h, h2, hi, show i - (p + q) < 32 by omega, show i - (p + q) < n - q by omega,
          show q + (i - (p + q)) = i - p by omega, show i - p < 32 by omega, show ¬ i - p < q by omega]
      · simp [BitVec.getLsbD_of_ge v (i - p) (by omega), BitVec.getLsbD_of_ge v (q + (i - (p + q))) (by omega)]

/-- A field of zeros puts nothing down. -/
theorem put_zero (p n : Nat) : put p (0#n) = 0#32 := by simp [put]

end Sys2Proof
end

