-- ==== Sys2Proof/Laws/State.lean ====
section
/-! SUPPORT. The fields of a state after each plain update: one lemma per field per update, all by rfl, so that no proof
unfolds a record update. -/

namespace Sys2Proof.Machine

variable (s : State)

/-! ### `writeNode` -/

@[simp] theorem writeNode_nodes (a : NodeAddr) (n : Node) : (writeNode s a n).nodes = Memory.write .empty s.nodes a.toNat n := rfl
@[simp] theorem writeNode_codes (a : NodeAddr) (n : Node) : (writeNode s a n).codes = s.codes := rfl
@[simp] theorem writeNode_stage (a : NodeAddr) (n : Node) : (writeNode s a n).stage = s.stage := rfl
@[simp] theorem writeNode_root (a : NodeAddr) (n : Node) : (writeNode s a n).root = s.root := rfl
@[simp] theorem writeNode_dstate (a : NodeAddr) (n : Node) : (writeNode s a n).dstate = s.dstate := rfl
@[simp] theorem writeNode_remain (a : NodeAddr) (n : Node) : (writeNode s a n).remain = s.remain := rfl
@[simp] theorem writeNode_consumed (a : NodeAddr) (n : Node) : (writeNode s a n).consumed = s.consumed := rfl
@[simp] theorem writeNode_cur (a : NodeAddr) (n : Node) : (writeNode s a n).cur = s.cur := rfl
@[simp] theorem writeNode_mid (a : NodeAddr) (n : Node) : (writeNode s a n).mid = s.mid := rfl
@[simp] theorem writeNode_symcount (a : NodeAddr) (n : Node) : (writeNode s a n).symcount = s.symcount := rfl
@[simp] theorem writeNode_estate (a : NodeAddr) (n : Node) : (writeNode s a n).estate = s.estate := rfl
@[simp] theorem writeNode_ebits (a : NodeAddr) (n : Node) : (writeNode s a n).ebits = s.ebits := rfl
@[simp] theorem writeNode_cmdErr (a : NodeAddr) (n : Node) : (writeNode s a n).cmdErr = s.cmdErr := rfl
@[simp] theorem writeNode_decErr (a : NodeAddr) (n : Node) : (writeNode s a n).decErr = s.decErr := rfl
@[simp] theorem writeNode_encErr (a : NodeAddr) (n : Node) : (writeNode s a n).encErr = s.encErr := rfl
@[simp] theorem writeNode_decDone (a : NodeAddr) (n : Node) : (writeNode s a n).decDone = s.decDone := rfl
@[simp] theorem writeNode_encDone (a : NodeAddr) (n : Node) : (writeNode s a n).encDone = s.encDone := rfl
@[simp] theorem writeNode_ieDone (a : NodeAddr) (n : Node) : (writeNode s a n).ieDone = s.ieDone := rfl
@[simp] theorem writeNode_ieErr (a : NodeAddr) (n : Node) : (writeNode s a n).ieErr = s.ieErr := rfl
@[simp] theorem writeNode_ceCause (a : NodeAddr) (n : Node) : (writeNode s a n).ceCause = s.ceCause := rfl
@[simp] theorem writeNode_ceWord (a : NodeAddr) (n : Node) : (writeNode s a n).ceWord = s.ceWord := rfl
@[simp] theorem writeNode_deInfo (a : NodeAddr) (n : Node) : (writeNode s a n).deInfo = s.deInfo := rfl
@[simp] theorem writeNode_deBit (a : NodeAddr) (n : Node) : (writeNode s a n).deBit = s.deBit := rfl
@[simp] theorem writeNode_eeInfo (a : NodeAddr) (n : Node) : (writeNode s a n).eeInfo = s.eeInfo := rfl
@[simp] theorem writeNode_dout (a : NodeAddr) (n : Node) : (writeNode s a n).dout = s.dout := rfl
@[simp] theorem writeNode_eout (a : NodeAddr) (n : Node) : (writeNode s a n).eout = s.eout := rfl
@[simp] theorem writeNode_doutDepth (a : NodeAddr) (n : Node) : (writeNode s a n).doutDepth = s.doutDepth := rfl
@[simp] theorem writeNode_eoutDepth (a : NodeAddr) (n : Node) : (writeNode s a n).eoutDepth = s.eoutDepth := rfl
@[simp] theorem writeNode_port (a : NodeAddr) (n : Node) : (writeNode s a n).port = s.port := rfl
@[simp] theorem writeNode_turns (a : NodeAddr) (n : Node) : (writeNode s a n).turns = s.turns := rfl

/-! ### `clearNodes` -/

@[simp] theorem clearNodes_nodes : (clearNodes s).nodes = [] := rfl
@[simp] theorem clearNodes_codes : (clearNodes s).codes = s.codes := rfl
@[simp] theorem clearNodes_stage : (clearNodes s).stage = s.stage := rfl
@[simp] theorem clearNodes_root : (clearNodes s).root = s.root := rfl
@[simp] theorem clearNodes_dstate : (clearNodes s).dstate = s.dstate := rfl
@[simp] theorem clearNodes_remain : (clearNodes s).remain = s.remain := rfl
@[simp] theorem clearNodes_consumed : (clearNodes s).consumed = s.consumed := rfl
@[simp] theorem clearNodes_cur : (clearNodes s).cur = s.cur := rfl
@[simp] theorem clearNodes_mid : (clearNodes s).mid = s.mid := rfl
@[simp] theorem clearNodes_symcount : (clearNodes s).symcount = s.symcount := rfl
@[simp] theorem clearNodes_estate : (clearNodes s).estate = s.estate := rfl
@[simp] theorem clearNodes_ebits : (clearNodes s).ebits = s.ebits := rfl
@[simp] theorem clearNodes_cmdErr : (clearNodes s).cmdErr = s.cmdErr := rfl
@[simp] theorem clearNodes_decErr : (clearNodes s).decErr = s.decErr := rfl
@[simp] theorem clearNodes_encErr : (clearNodes s).encErr = s.encErr := rfl
@[simp] theorem clearNodes_decDone : (clearNodes s).decDone = s.decDone := rfl
@[simp] theorem clearNodes_encDone : (clearNodes s).encDone = s.encDone := rfl
@[simp] theorem clearNodes_ieDone : (clearNodes s).ieDone = s.ieDone := rfl
@[simp] theorem clearNodes_ieErr : (clearNodes s).ieErr = s.ieErr := rfl
@[simp] theorem clearNodes_ceCause : (clearNodes s).ceCause = s.ceCause := rfl
@[simp] theorem clearNodes_ceWord : (clearNodes s).ceWord = s.ceWord := rfl
@[simp] theorem clearNodes_deInfo : (clearNodes s).deInfo = s.deInfo := rfl
@[simp] theorem clearNodes_deBit : (clearNodes s).deBit = s.deBit := rfl
@[simp] theorem clearNodes_eeInfo : (clearNodes s).eeInfo = s.eeInfo := rfl
@[simp] theorem clearNodes_dout : (clearNodes s).dout = s.dout := rfl
@[simp] theorem clearNodes_eout : (clearNodes s).eout = s.eout := rfl
@[simp] theorem clearNodes_doutDepth : (clearNodes s).doutDepth = s.doutDepth := rfl
@[simp] theorem clearNodes_eoutDepth : (clearNodes s).eoutDepth = s.eoutDepth := rfl
@[simp] theorem clearNodes_port : (clearNodes s).port = s.port := rfl
@[simp] theorem clearNodes_turns : (clearNodes s).turns = s.turns := rfl

/-! ### `writeCode` -/

@[simp] theorem writeCode_nodes (q : Symbol) (e : CodeEntry) : (writeCode s q e).nodes = s.nodes := rfl
@[simp] theorem writeCode_codes (q : Symbol) (e : CodeEntry) : (writeCode s q e).codes = Memory.write .invalid s.codes q.toNat e := rfl
@[simp] theorem writeCode_stage (q : Symbol) (e : CodeEntry) : (writeCode s q e).stage = s.stage := rfl
@[simp] theorem writeCode_root (q : Symbol) (e : CodeEntry) : (writeCode s q e).root = s.root := rfl
@[simp] theorem writeCode_dstate (q : Symbol) (e : CodeEntry) : (writeCode s q e).dstate = s.dstate := rfl
@[simp] theorem writeCode_remain (q : Symbol) (e : CodeEntry) : (writeCode s q e).remain = s.remain := rfl
@[simp] theorem writeCode_consumed (q : Symbol) (e : CodeEntry) : (writeCode s q e).consumed = s.consumed := rfl
@[simp] theorem writeCode_cur (q : Symbol) (e : CodeEntry) : (writeCode s q e).cur = s.cur := rfl
@[simp] theorem writeCode_mid (q : Symbol) (e : CodeEntry) : (writeCode s q e).mid = s.mid := rfl
@[simp] theorem writeCode_symcount (q : Symbol) (e : CodeEntry) : (writeCode s q e).symcount = s.symcount := rfl
@[simp] theorem writeCode_estate (q : Symbol) (e : CodeEntry) : (writeCode s q e).estate = s.estate := rfl
@[simp] theorem writeCode_ebits (q : Symbol) (e : CodeEntry) : (writeCode s q e).ebits = s.ebits := rfl
@[simp] theorem writeCode_cmdErr (q : Symbol) (e : CodeEntry) : (writeCode s q e).cmdErr = s.cmdErr := rfl
@[simp] theorem writeCode_decErr (q : Symbol) (e : CodeEntry) : (writeCode s q e).decErr = s.decErr := rfl
@[simp] theorem writeCode_encErr (q : Symbol) (e : CodeEntry) : (writeCode s q e).encErr = s.encErr := rfl
@[simp] theorem writeCode_decDone (q : Symbol) (e : CodeEntry) : (writeCode s q e).decDone = s.decDone := rfl
@[simp] theorem writeCode_encDone (q : Symbol) (e : CodeEntry) : (writeCode s q e).encDone = s.encDone := rfl
@[simp] theorem writeCode_ieDone (q : Symbol) (e : CodeEntry) : (writeCode s q e).ieDone = s.ieDone := rfl
@[simp] theorem writeCode_ieErr (q : Symbol) (e : CodeEntry) : (writeCode s q e).ieErr = s.ieErr := rfl
@[simp] theorem writeCode_ceCause (q : Symbol) (e : CodeEntry) : (writeCode s q e).ceCause = s.ceCause := rfl
@[simp] theorem writeCode_ceWord (q : Symbol) (e : CodeEntry) : (writeCode s q e).ceWord = s.ceWord := rfl
@[simp] theorem writeCode_deInfo (q : Symbol) (e : CodeEntry) : (writeCode s q e).deInfo = s.deInfo := rfl
@[simp] theorem writeCode_deBit (q : Symbol) (e : CodeEntry) : (writeCode s q e).deBit = s.deBit := rfl
@[simp] theorem writeCode_eeInfo (q : Symbol) (e : CodeEntry) : (writeCode s q e).eeInfo = s.eeInfo := rfl
@[simp] theorem writeCode_dout (q : Symbol) (e : CodeEntry) : (writeCode s q e).dout = s.dout := rfl
@[simp] theorem writeCode_eout (q : Symbol) (e : CodeEntry) : (writeCode s q e).eout = s.eout := rfl
@[simp] theorem writeCode_doutDepth (q : Symbol) (e : CodeEntry) : (writeCode s q e).doutDepth = s.doutDepth := rfl
@[simp] theorem writeCode_eoutDepth (q : Symbol) (e : CodeEntry) : (writeCode s q e).eoutDepth = s.eoutDepth := rfl
@[simp] theorem writeCode_port (q : Symbol) (e : CodeEntry) : (writeCode s q e).port = s.port := rfl
@[simp] theorem writeCode_turns (q : Symbol) (e : CodeEntry) : (writeCode s q e).turns = s.turns := rfl

/-! ### `clearCodes` -/

@[simp] theorem clearCodes_nodes : (clearCodes s).nodes = s.nodes := rfl
@[simp] theorem clearCodes_codes : (clearCodes s).codes = [] := rfl
@[simp] theorem clearCodes_stage : (clearCodes s).stage = s.stage := rfl
@[simp] theorem clearCodes_root : (clearCodes s).root = s.root := rfl
@[simp] theorem clearCodes_dstate : (clearCodes s).dstate = s.dstate := rfl
@[simp] theorem clearCodes_remain : (clearCodes s).remain = s.remain := rfl
@[simp] theorem clearCodes_consumed : (clearCodes s).consumed = s.consumed := rfl
@[simp] theorem clearCodes_cur : (clearCodes s).cur = s.cur := rfl
@[simp] theorem clearCodes_mid : (clearCodes s).mid = s.mid := rfl
@[simp] theorem clearCodes_symcount : (clearCodes s).symcount = s.symcount := rfl
@[simp] theorem clearCodes_estate : (clearCodes s).estate = s.estate := rfl
@[simp] theorem clearCodes_ebits : (clearCodes s).ebits = s.ebits := rfl
@[simp] theorem clearCodes_cmdErr : (clearCodes s).cmdErr = s.cmdErr := rfl
@[simp] theorem clearCodes_decErr : (clearCodes s).decErr = s.decErr := rfl
@[simp] theorem clearCodes_encErr : (clearCodes s).encErr = s.encErr := rfl
@[simp] theorem clearCodes_decDone : (clearCodes s).decDone = s.decDone := rfl
@[simp] theorem clearCodes_encDone : (clearCodes s).encDone = s.encDone := rfl
@[simp] theorem clearCodes_ieDone : (clearCodes s).ieDone = s.ieDone := rfl
@[simp] theorem clearCodes_ieErr : (clearCodes s).ieErr = s.ieErr := rfl
@[simp] theorem clearCodes_ceCause : (clearCodes s).ceCause = s.ceCause := rfl
@[simp] theorem clearCodes_ceWord : (clearCodes s).ceWord = s.ceWord := rfl
@[simp] theorem clearCodes_deInfo : (clearCodes s).deInfo = s.deInfo := rfl
@[simp] theorem clearCodes_deBit : (clearCodes s).deBit = s.deBit := rfl
@[simp] theorem clearCodes_eeInfo : (clearCodes s).eeInfo = s.eeInfo := rfl
@[simp] theorem clearCodes_dout : (clearCodes s).dout = s.dout := rfl
@[simp] theorem clearCodes_eout : (clearCodes s).eout = s.eout := rfl
@[simp] theorem clearCodes_doutDepth : (clearCodes s).doutDepth = s.doutDepth := rfl
@[simp] theorem clearCodes_eoutDepth : (clearCodes s).eoutDepth = s.eoutDepth := rfl
@[simp] theorem clearCodes_port : (clearCodes s).port = s.port := rfl
@[simp] theorem clearCodes_turns : (clearCodes s).turns = s.turns := rfl

/-! ### `pushDout` -/

@[simp] theorem pushDout_nodes (t : DToken) : (pushDout t s).nodes = s.nodes := rfl
@[simp] theorem pushDout_codes (t : DToken) : (pushDout t s).codes = s.codes := rfl
@[simp] theorem pushDout_stage (t : DToken) : (pushDout t s).stage = s.stage := rfl
@[simp] theorem pushDout_root (t : DToken) : (pushDout t s).root = s.root := rfl
@[simp] theorem pushDout_dstate (t : DToken) : (pushDout t s).dstate = s.dstate := rfl
@[simp] theorem pushDout_remain (t : DToken) : (pushDout t s).remain = s.remain := rfl
@[simp] theorem pushDout_consumed (t : DToken) : (pushDout t s).consumed = s.consumed := rfl
@[simp] theorem pushDout_cur (t : DToken) : (pushDout t s).cur = s.cur := rfl
@[simp] theorem pushDout_mid (t : DToken) : (pushDout t s).mid = s.mid := rfl
@[simp] theorem pushDout_symcount (t : DToken) : (pushDout t s).symcount = s.symcount := rfl
@[simp] theorem pushDout_estate (t : DToken) : (pushDout t s).estate = s.estate := rfl
@[simp] theorem pushDout_ebits (t : DToken) : (pushDout t s).ebits = s.ebits := rfl
@[simp] theorem pushDout_cmdErr (t : DToken) : (pushDout t s).cmdErr = s.cmdErr := rfl
@[simp] theorem pushDout_decErr (t : DToken) : (pushDout t s).decErr = s.decErr := rfl
@[simp] theorem pushDout_encErr (t : DToken) : (pushDout t s).encErr = s.encErr := rfl
@[simp] theorem pushDout_decDone (t : DToken) : (pushDout t s).decDone = s.decDone := rfl
@[simp] theorem pushDout_encDone (t : DToken) : (pushDout t s).encDone = s.encDone := rfl
@[simp] theorem pushDout_ieDone (t : DToken) : (pushDout t s).ieDone = s.ieDone := rfl
@[simp] theorem pushDout_ieErr (t : DToken) : (pushDout t s).ieErr = s.ieErr := rfl
@[simp] theorem pushDout_ceCause (t : DToken) : (pushDout t s).ceCause = s.ceCause := rfl
@[simp] theorem pushDout_ceWord (t : DToken) : (pushDout t s).ceWord = s.ceWord := rfl
@[simp] theorem pushDout_deInfo (t : DToken) : (pushDout t s).deInfo = s.deInfo := rfl
@[simp] theorem pushDout_deBit (t : DToken) : (pushDout t s).deBit = s.deBit := rfl
@[simp] theorem pushDout_eeInfo (t : DToken) : (pushDout t s).eeInfo = s.eeInfo := rfl
@[simp] theorem pushDout_dout (t : DToken) : (pushDout t s).dout = s.dout ++ [t] := rfl
@[simp] theorem pushDout_eout (t : DToken) : (pushDout t s).eout = s.eout := rfl
@[simp] theorem pushDout_doutDepth (t : DToken) : (pushDout t s).doutDepth = s.doutDepth := rfl
@[simp] theorem pushDout_eoutDepth (t : DToken) : (pushDout t s).eoutDepth = s.eoutDepth := rfl
@[simp] theorem pushDout_port (t : DToken) : (pushDout t s).port = s.port := rfl
@[simp] theorem pushDout_turns (t : DToken) : (pushDout t s).turns = s.turns := rfl

/-! ### `pushEout` -/

@[simp] theorem pushEout_nodes (t : EToken) : (pushEout t s).nodes = s.nodes := rfl
@[simp] theorem pushEout_codes (t : EToken) : (pushEout t s).codes = s.codes := rfl
@[simp] theorem pushEout_stage (t : EToken) : (pushEout t s).stage = s.stage := rfl
@[simp] theorem pushEout_root (t : EToken) : (pushEout t s).root = s.root := rfl
@[simp] theorem pushEout_dstate (t : EToken) : (pushEout t s).dstate = s.dstate := rfl
@[simp] theorem pushEout_remain (t : EToken) : (pushEout t s).remain = s.remain := rfl
@[simp] theorem pushEout_consumed (t : EToken) : (pushEout t s).consumed = s.consumed := rfl
@[simp] theorem pushEout_cur (t : EToken) : (pushEout t s).cur = s.cur := rfl
@[simp] theorem pushEout_mid (t : EToken) : (pushEout t s).mid = s.mid := rfl
@[simp] theorem pushEout_symcount (t : EToken) : (pushEout t s).symcount = s.symcount := rfl
@[simp] theorem pushEout_estate (t : EToken) : (pushEout t s).estate = s.estate := rfl
@[simp] theorem pushEout_ebits (t : EToken) : (pushEout t s).ebits = s.ebits := rfl
@[simp] theorem pushEout_cmdErr (t : EToken) : (pushEout t s).cmdErr = s.cmdErr := rfl
@[simp] theorem pushEout_decErr (t : EToken) : (pushEout t s).decErr = s.decErr := rfl
@[simp] theorem pushEout_encErr (t : EToken) : (pushEout t s).encErr = s.encErr := rfl
@[simp] theorem pushEout_decDone (t : EToken) : (pushEout t s).decDone = s.decDone := rfl
@[simp] theorem pushEout_encDone (t : EToken) : (pushEout t s).encDone = s.encDone := rfl
@[simp] theorem pushEout_ieDone (t : EToken) : (pushEout t s).ieDone = s.ieDone := rfl
@[simp] theorem pushEout_ieErr (t : EToken) : (pushEout t s).ieErr = s.ieErr := rfl
@[simp] theorem pushEout_ceCause (t : EToken) : (pushEout t s).ceCause = s.ceCause := rfl
@[simp] theorem pushEout_ceWord (t : EToken) : (pushEout t s).ceWord = s.ceWord := rfl
@[simp] theorem pushEout_deInfo (t : EToken) : (pushEout t s).deInfo = s.deInfo := rfl
@[simp] theorem pushEout_deBit (t : EToken) : (pushEout t s).deBit = s.deBit := rfl
@[simp] theorem pushEout_eeInfo (t : EToken) : (pushEout t s).eeInfo = s.eeInfo := rfl
@[simp] theorem pushEout_dout (t : EToken) : (pushEout t s).dout = s.dout := rfl
@[simp] theorem pushEout_eout (t : EToken) : (pushEout t s).eout = s.eout ++ [t] := rfl
@[simp] theorem pushEout_doutDepth (t : EToken) : (pushEout t s).doutDepth = s.doutDepth := rfl
@[simp] theorem pushEout_eoutDepth (t : EToken) : (pushEout t s).eoutDepth = s.eoutDepth := rfl
@[simp] theorem pushEout_port (t : EToken) : (pushEout t s).port = s.port := rfl
@[simp] theorem pushEout_turns (t : EToken) : (pushEout t s).turns = s.turns := rfl

/-! ### `popDout` -/

@[simp] theorem popDout_nodes : (popDout s).nodes = s.nodes := rfl
@[simp] theorem popDout_codes : (popDout s).codes = s.codes := rfl
@[simp] theorem popDout_stage : (popDout s).stage = s.stage := rfl
@[simp] theorem popDout_root : (popDout s).root = s.root := rfl
@[simp] theorem popDout_dstate : (popDout s).dstate = s.dstate := rfl
@[simp] theorem popDout_remain : (popDout s).remain = s.remain := rfl
@[simp] theorem popDout_consumed : (popDout s).consumed = s.consumed := rfl
@[simp] theorem popDout_cur : (popDout s).cur = s.cur := rfl
@[simp] theorem popDout_mid : (popDout s).mid = s.mid := rfl
@[simp] theorem popDout_symcount : (popDout s).symcount = s.symcount := rfl
@[simp] theorem popDout_estate : (popDout s).estate = s.estate := rfl
@[simp] theorem popDout_ebits : (popDout s).ebits = s.ebits := rfl
@[simp] theorem popDout_cmdErr : (popDout s).cmdErr = s.cmdErr := rfl
@[simp] theorem popDout_decErr : (popDout s).decErr = s.decErr := rfl
@[simp] theorem popDout_encErr : (popDout s).encErr = s.encErr := rfl
@[simp] theorem popDout_decDone : (popDout s).decDone = s.decDone := rfl
@[simp] theorem popDout_encDone : (popDout s).encDone = s.encDone := rfl
@[simp] theorem popDout_ieDone : (popDout s).ieDone = s.ieDone := rfl
@[simp] theorem popDout_ieErr : (popDout s).ieErr = s.ieErr := rfl
@[simp] theorem popDout_ceCause : (popDout s).ceCause = s.ceCause := rfl
@[simp] theorem popDout_ceWord : (popDout s).ceWord = s.ceWord := rfl
@[simp] theorem popDout_deInfo : (popDout s).deInfo = s.deInfo := rfl
@[simp] theorem popDout_deBit : (popDout s).deBit = s.deBit := rfl
@[simp] theorem popDout_eeInfo : (popDout s).eeInfo = s.eeInfo := rfl
@[simp] theorem popDout_dout : (popDout s).dout = s.dout.tail := rfl
@[simp] theorem popDout_eout : (popDout s).eout = s.eout := rfl
@[simp] theorem popDout_doutDepth : (popDout s).doutDepth = s.doutDepth := rfl
@[simp] theorem popDout_eoutDepth : (popDout s).eoutDepth = s.eoutDepth := rfl
@[simp] theorem popDout_port : (popDout s).port = s.port := rfl
@[simp] theorem popDout_turns : (popDout s).turns = s.turns := rfl

/-! ### `popEout` -/

@[simp] theorem popEout_nodes : (popEout s).nodes = s.nodes := rfl
@[simp] theorem popEout_codes : (popEout s).codes = s.codes := rfl
@[simp] theorem popEout_stage : (popEout s).stage = s.stage := rfl
@[simp] theorem popEout_root : (popEout s).root = s.root := rfl
@[simp] theorem popEout_dstate : (popEout s).dstate = s.dstate := rfl
@[simp] theorem popEout_remain : (popEout s).remain = s.remain := rfl
@[simp] theorem popEout_consumed : (popEout s).consumed = s.consumed := rfl
@[simp] theorem popEout_cur : (popEout s).cur = s.cur := rfl
@[simp] theorem popEout_mid : (popEout s).mid = s.mid := rfl
@[simp] theorem popEout_symcount : (popEout s).symcount = s.symcount := rfl
@[simp] theorem popEout_estate : (popEout s).estate = s.estate := rfl
@[simp] theorem popEout_ebits : (popEout s).ebits = s.ebits := rfl
@[simp] theorem popEout_cmdErr : (popEout s).cmdErr = s.cmdErr := rfl
@[simp] theorem popEout_decErr : (popEout s).decErr = s.decErr := rfl
@[simp] theorem popEout_encErr : (popEout s).encErr = s.encErr := rfl
@[simp] theorem popEout_decDone : (popEout s).decDone = s.decDone := rfl
@[simp] theorem popEout_encDone : (popEout s).encDone = s.encDone := rfl
@[simp] theorem popEout_ieDone : (popEout s).ieDone = s.ieDone := rfl
@[simp] theorem popEout_ieErr : (popEout s).ieErr = s.ieErr := rfl
@[simp] theorem popEout_ceCause : (popEout s).ceCause = s.ceCause := rfl
@[simp] theorem popEout_ceWord : (popEout s).ceWord = s.ceWord := rfl
@[simp] theorem popEout_deInfo : (popEout s).deInfo = s.deInfo := rfl
@[simp] theorem popEout_deBit : (popEout s).deBit = s.deBit := rfl
@[simp] theorem popEout_eeInfo : (popEout s).eeInfo = s.eeInfo := rfl
@[simp] theorem popEout_dout : (popEout s).dout = s.dout := rfl
@[simp] theorem popEout_eout : (popEout s).eout = s.eout.tail := rfl
@[simp] theorem popEout_doutDepth : (popEout s).doutDepth = s.doutDepth := rfl
@[simp] theorem popEout_eoutDepth : (popEout s).eoutDepth = s.eoutDepth := rfl
@[simp] theorem popEout_port : (popEout s).port = s.port := rfl
@[simp] theorem popEout_turns : (popEout s).turns = s.turns := rfl

/-! ### `endDecode` -/

@[simp] theorem endDecode_nodes (st : Status) : (endDecode st s).nodes = s.nodes := rfl
@[simp] theorem endDecode_codes (st : Status) : (endDecode st s).codes = s.codes := rfl
@[simp] theorem endDecode_stage (st : Status) : (endDecode st s).stage = s.stage := rfl
@[simp] theorem endDecode_root (st : Status) : (endDecode st s).root = s.root := rfl
@[simp] theorem endDecode_dstate (st : Status) : (endDecode st s).dstate = s.dstate := rfl
@[simp] theorem endDecode_remain (st : Status) : (endDecode st s).remain = s.remain := rfl
@[simp] theorem endDecode_consumed (st : Status) : (endDecode st s).consumed = s.consumed := rfl
@[simp] theorem endDecode_cur (st : Status) : (endDecode st s).cur = s.cur := rfl
@[simp] theorem endDecode_mid (st : Status) : (endDecode st s).mid = s.mid := rfl
@[simp] theorem endDecode_symcount (st : Status) : (endDecode st s).symcount = s.symcount := rfl
@[simp] theorem endDecode_estate (st : Status) : (endDecode st s).estate = s.estate := rfl
@[simp] theorem endDecode_ebits (st : Status) : (endDecode st s).ebits = s.ebits := rfl
@[simp] theorem endDecode_cmdErr (st : Status) : (endDecode st s).cmdErr = s.cmdErr := rfl
@[simp] theorem endDecode_decErr (st : Status) : (endDecode st s).decErr = s.decErr := rfl
@[simp] theorem endDecode_encErr (st : Status) : (endDecode st s).encErr = s.encErr := rfl
@[simp] theorem endDecode_decDone (st : Status) : (endDecode st s).decDone = true := rfl
@[simp] theorem endDecode_encDone (st : Status) : (endDecode st s).encDone = s.encDone := rfl
@[simp] theorem endDecode_ieDone (st : Status) : (endDecode st s).ieDone = s.ieDone := rfl
@[simp] theorem endDecode_ieErr (st : Status) : (endDecode st s).ieErr = s.ieErr := rfl
@[simp] theorem endDecode_ceCause (st : Status) : (endDecode st s).ceCause = s.ceCause := rfl
@[simp] theorem endDecode_ceWord (st : Status) : (endDecode st s).ceWord = s.ceWord := rfl
@[simp] theorem endDecode_deInfo (st : Status) : (endDecode st s).deInfo = s.deInfo := rfl
@[simp] theorem endDecode_deBit (st : Status) : (endDecode st s).deBit = s.deBit := rfl
@[simp] theorem endDecode_eeInfo (st : Status) : (endDecode st s).eeInfo = s.eeInfo := rfl
@[simp] theorem endDecode_dout (st : Status) : (endDecode st s).dout = s.dout ++ [.done st s.symcount] := rfl
@[simp] theorem endDecode_eout (st : Status) : (endDecode st s).eout = s.eout := rfl
@[simp] theorem endDecode_doutDepth (st : Status) : (endDecode st s).doutDepth = s.doutDepth := rfl
@[simp] theorem endDecode_eoutDepth (st : Status) : (endDecode st s).eoutDepth = s.eoutDepth := rfl
@[simp] theorem endDecode_port (st : Status) : (endDecode st s).port = s.port := rfl
@[simp] theorem endDecode_turns (st : Status) : (endDecode st s).turns = s.turns := rfl

/-! ### `endEncode` -/

@[simp] theorem endEncode_nodes (st : Status) : (endEncode st s).nodes = s.nodes := rfl
@[simp] theorem endEncode_codes (st : Status) : (endEncode st s).codes = s.codes := rfl
@[simp] theorem endEncode_stage (st : Status) : (endEncode st s).stage = s.stage := rfl
@[simp] theorem endEncode_root (st : Status) : (endEncode st s).root = s.root := rfl
@[simp] theorem endEncode_dstate (st : Status) : (endEncode st s).dstate = s.dstate := rfl
@[simp] theorem endEncode_remain (st : Status) : (endEncode st s).remain = s.remain := rfl
@[simp] theorem endEncode_consumed (st : Status) : (endEncode st s).consumed = s.consumed := rfl
@[simp] theorem endEncode_cur (st : Status) : (endEncode st s).cur = s.cur := rfl
@[simp] theorem endEncode_mid (st : Status) : (endEncode st s).mid = s.mid := rfl
@[simp] theorem endEncode_symcount (st : Status) : (endEncode st s).symcount = s.symcount := rfl
@[simp] theorem endEncode_estate (st : Status) : (endEncode st s).estate = s.estate := rfl
@[simp] theorem endEncode_ebits (st : Status) : (endEncode st s).ebits = s.ebits := rfl
@[simp] theorem endEncode_cmdErr (st : Status) : (endEncode st s).cmdErr = s.cmdErr := rfl
@[simp] theorem endEncode_decErr (st : Status) : (endEncode st s).decErr = s.decErr := rfl
@[simp] theorem endEncode_encErr (st : Status) : (endEncode st s).encErr = s.encErr := rfl
@[simp] theorem endEncode_decDone (st : Status) : (endEncode st s).decDone = s.decDone := rfl
@[simp] theorem endEncode_encDone (st : Status) : (endEncode st s).encDone = true := rfl
@[simp] theorem endEncode_ieDone (st : Status) : (endEncode st s).ieDone = s.ieDone := rfl
@[simp] theorem endEncode_ieErr (st : Status) : (endEncode st s).ieErr = s.ieErr := rfl
@[simp] theorem endEncode_ceCause (st : Status) : (endEncode st s).ceCause = s.ceCause := rfl
@[simp] theorem endEncode_ceWord (st : Status) : (endEncode st s).ceWord = s.ceWord := rfl
@[simp] theorem endEncode_deInfo (st : Status) : (endEncode st s).deInfo = s.deInfo := rfl
@[simp] theorem endEncode_deBit (st : Status) : (endEncode st s).deBit = s.deBit := rfl
@[simp] theorem endEncode_eeInfo (st : Status) : (endEncode st s).eeInfo = s.eeInfo := rfl
@[simp] theorem endEncode_dout (st : Status) : (endEncode st s).dout = s.dout := rfl
@[simp] theorem endEncode_eout (st : Status) : (endEncode st s).eout = s.eout ++ [.done st s.ebits] := rfl
@[simp] theorem endEncode_doutDepth (st : Status) : (endEncode st s).doutDepth = s.doutDepth := rfl
@[simp] theorem endEncode_eoutDepth (st : Status) : (endEncode st s).eoutDepth = s.eoutDepth := rfl
@[simp] theorem endEncode_port (st : Status) : (endEncode st s).port = s.port := rfl
@[simp] theorem endEncode_turns (st : Status) : (endEncode st s).turns = s.turns := rfl

/-! ### `clearCmdErr` -/

@[simp] theorem clearCmdErr_nodes : (clearCmdErr s).nodes = s.nodes := rfl
@[simp] theorem clearCmdErr_codes : (clearCmdErr s).codes = s.codes := rfl
@[simp] theorem clearCmdErr_stage : (clearCmdErr s).stage = s.stage := rfl
@[simp] theorem clearCmdErr_root : (clearCmdErr s).root = s.root := rfl
@[simp] theorem clearCmdErr_dstate : (clearCmdErr s).dstate = s.dstate := rfl
@[simp] theorem clearCmdErr_remain : (clearCmdErr s).remain = s.remain := rfl
@[simp] theorem clearCmdErr_consumed : (clearCmdErr s).consumed = s.consumed := rfl
@[simp] theorem clearCmdErr_cur : (clearCmdErr s).cur = s.cur := rfl
@[simp] theorem clearCmdErr_mid : (clearCmdErr s).mid = s.mid := rfl
@[simp] theorem clearCmdErr_symcount : (clearCmdErr s).symcount = s.symcount := rfl
@[simp] theorem clearCmdErr_estate : (clearCmdErr s).estate = s.estate := rfl
@[simp] theorem clearCmdErr_ebits : (clearCmdErr s).ebits = s.ebits := rfl
@[simp] theorem clearCmdErr_cmdErr : (clearCmdErr s).cmdErr = false := rfl
@[simp] theorem clearCmdErr_decErr : (clearCmdErr s).decErr = s.decErr := rfl
@[simp] theorem clearCmdErr_encErr : (clearCmdErr s).encErr = s.encErr := rfl
@[simp] theorem clearCmdErr_decDone : (clearCmdErr s).decDone = s.decDone := rfl
@[simp] theorem clearCmdErr_encDone : (clearCmdErr s).encDone = s.encDone := rfl
@[simp] theorem clearCmdErr_ieDone : (clearCmdErr s).ieDone = s.ieDone := rfl
@[simp] theorem clearCmdErr_ieErr : (clearCmdErr s).ieErr = s.ieErr := rfl
@[simp] theorem clearCmdErr_ceCause : (clearCmdErr s).ceCause = 0#4 := rfl
@[simp] theorem clearCmdErr_ceWord : (clearCmdErr s).ceWord = 0#32 := rfl
@[simp] theorem clearCmdErr_deInfo : (clearCmdErr s).deInfo = s.deInfo := rfl
@[simp] theorem clearCmdErr_deBit : (clearCmdErr s).deBit = s.deBit := rfl
@[simp] theorem clearCmdErr_eeInfo : (clearCmdErr s).eeInfo = s.eeInfo := rfl
@[simp] theorem clearCmdErr_dout : (clearCmdErr s).dout = s.dout := rfl
@[simp] theorem clearCmdErr_eout : (clearCmdErr s).eout = s.eout := rfl
@[simp] theorem clearCmdErr_doutDepth : (clearCmdErr s).doutDepth = s.doutDepth := rfl
@[simp] theorem clearCmdErr_eoutDepth : (clearCmdErr s).eoutDepth = s.eoutDepth := rfl
@[simp] theorem clearCmdErr_port : (clearCmdErr s).port = s.port := rfl
@[simp] theorem clearCmdErr_turns : (clearCmdErr s).turns = s.turns := rfl

/-! ### `clearDecErr` -/

@[simp] theorem clearDecErr_nodes : (clearDecErr s).nodes = s.nodes := rfl
@[simp] theorem clearDecErr_codes : (clearDecErr s).codes = s.codes := rfl
@[simp] theorem clearDecErr_stage : (clearDecErr s).stage = s.stage := rfl
@[simp] theorem clearDecErr_root : (clearDecErr s).root = s.root := rfl
@[simp] theorem clearDecErr_dstate : (clearDecErr s).dstate = s.dstate := rfl
@[simp] theorem clearDecErr_remain : (clearDecErr s).remain = s.remain := rfl
@[simp] theorem clearDecErr_consumed : (clearDecErr s).consumed = s.consumed := rfl
@[simp] theorem clearDecErr_cur : (clearDecErr s).cur = s.cur := rfl
@[simp] theorem clearDecErr_mid : (clearDecErr s).mid = s.mid := rfl
@[simp] theorem clearDecErr_symcount : (clearDecErr s).symcount = s.symcount := rfl
@[simp] theorem clearDecErr_estate : (clearDecErr s).estate = s.estate := rfl
@[simp] theorem clearDecErr_ebits : (clearDecErr s).ebits = s.ebits := rfl
@[simp] theorem clearDecErr_cmdErr : (clearDecErr s).cmdErr = s.cmdErr := rfl
@[simp] theorem clearDecErr_decErr : (clearDecErr s).decErr = false := rfl
@[simp] theorem clearDecErr_encErr : (clearDecErr s).encErr = s.encErr := rfl
@[simp] theorem clearDecErr_decDone : (clearDecErr s).decDone = s.decDone := rfl
@[simp] theorem clearDecErr_encDone : (clearDecErr s).encDone = s.encDone := rfl
@[simp] theorem clearDecErr_ieDone : (clearDecErr s).ieDone = s.ieDone := rfl
@[simp] theorem clearDecErr_ieErr : (clearDecErr s).ieErr = s.ieErr := rfl
@[simp] theorem clearDecErr_ceCause : (clearDecErr s).ceCause = s.ceCause := rfl
@[simp] theorem clearDecErr_ceWord : (clearDecErr s).ceWord = s.ceWord := rfl
@[simp] theorem clearDecErr_deInfo : (clearDecErr s).deInfo = 0#24 := rfl
@[simp] theorem clearDecErr_deBit : (clearDecErr s).deBit = 0#28 := rfl
@[simp] theorem clearDecErr_eeInfo : (clearDecErr s).eeInfo = s.eeInfo := rfl
@[simp] theorem clearDecErr_dout : (clearDecErr s).dout = s.dout := rfl
@[simp] theorem clearDecErr_eout : (clearDecErr s).eout = s.eout := rfl
@[simp] theorem clearDecErr_doutDepth : (clearDecErr s).doutDepth = s.doutDepth := rfl
@[simp] theorem clearDecErr_eoutDepth : (clearDecErr s).eoutDepth = s.eoutDepth := rfl
@[simp] theorem clearDecErr_port : (clearDecErr s).port = s.port := rfl
@[simp] theorem clearDecErr_turns : (clearDecErr s).turns = s.turns := rfl

/-! ### `clearEncErr` -/

@[simp] theorem clearEncErr_nodes : (clearEncErr s).nodes = s.nodes := rfl
@[simp] theorem clearEncErr_codes : (clearEncErr s).codes = s.codes := rfl
@[simp] theorem clearEncErr_stage : (clearEncErr s).stage = s.stage := rfl
@[simp] theorem clearEncErr_root : (clearEncErr s).root = s.root := rfl
@[simp] theorem clearEncErr_dstate : (clearEncErr s).dstate = s.dstate := rfl
@[simp] theorem clearEncErr_remain : (clearEncErr s).remain = s.remain := rfl
@[simp] theorem clearEncErr_consumed : (clearEncErr s).consumed = s.consumed := rfl
@[simp] theorem clearEncErr_cur : (clearEncErr s).cur = s.cur := rfl
@[simp] theorem clearEncErr_mid : (clearEncErr s).mid = s.mid := rfl
@[simp] theorem clearEncErr_symcount : (clearEncErr s).symcount = s.symcount := rfl
@[simp] theorem clearEncErr_estate : (clearEncErr s).estate = s.estate := rfl
@[simp] theorem clearEncErr_ebits : (clearEncErr s).ebits = s.ebits := rfl
@[simp] theorem clearEncErr_cmdErr : (clearEncErr s).cmdErr = s.cmdErr := rfl
@[simp] theorem clearEncErr_decErr : (clearEncErr s).decErr = s.decErr := rfl
@[simp] theorem clearEncErr_encErr : (clearEncErr s).encErr = false := rfl
@[simp] theorem clearEncErr_decDone : (clearEncErr s).decDone = s.decDone := rfl
@[simp] theorem clearEncErr_encDone : (clearEncErr s).encDone = s.encDone := rfl
@[simp] theorem clearEncErr_ieDone : (clearEncErr s).ieDone = s.ieDone := rfl
@[simp] theorem clearEncErr_ieErr : (clearEncErr s).ieErr = s.ieErr := rfl
@[simp] theorem clearEncErr_ceCause : (clearEncErr s).ceCause = s.ceCause := rfl
@[simp] theorem clearEncErr_ceWord : (clearEncErr s).ceWord = s.ceWord := rfl
@[simp] theorem clearEncErr_deInfo : (clearEncErr s).deInfo = s.deInfo := rfl
@[simp] theorem clearEncErr_deBit : (clearEncErr s).deBit = s.deBit := rfl
@[simp] theorem clearEncErr_eeInfo : (clearEncErr s).eeInfo = 0#12 := rfl
@[simp] theorem clearEncErr_dout : (clearEncErr s).dout = s.dout := rfl
@[simp] theorem clearEncErr_eout : (clearEncErr s).eout = s.eout := rfl
@[simp] theorem clearEncErr_doutDepth : (clearEncErr s).doutDepth = s.doutDepth := rfl
@[simp] theorem clearEncErr_eoutDepth : (clearEncErr s).eoutDepth = s.eoutDepth := rfl
@[simp] theorem clearEncErr_port : (clearEncErr s).port = s.port := rfl
@[simp] theorem clearEncErr_turns : (clearEncErr s).turns = s.turns := rfl

/-! ### `clearDecDone` -/

@[simp] theorem clearDecDone_nodes : (clearDecDone s).nodes = s.nodes := rfl
@[simp] theorem clearDecDone_codes : (clearDecDone s).codes = s.codes := rfl
@[simp] theorem clearDecDone_stage : (clearDecDone s).stage = s.stage := rfl
@[simp] theorem clearDecDone_root : (clearDecDone s).root = s.root := rfl
@[simp] theorem clearDecDone_dstate : (clearDecDone s).dstate = s.dstate := rfl
@[simp] theorem clearDecDone_remain : (clearDecDone s).remain = s.remain := rfl
@[simp] theorem clearDecDone_consumed : (clearDecDone s).consumed = s.consumed := rfl
@[simp] theorem clearDecDone_cur : (clearDecDone s).cur = s.cur := rfl
@[simp] theorem clearDecDone_mid : (clearDecDone s).mid = s.mid := rfl
@[simp] theorem clearDecDone_symcount : (clearDecDone s).symcount = s.symcount := rfl
@[simp] theorem clearDecDone_estate : (clearDecDone s).estate = s.estate := rfl
@[simp] theorem clearDecDone_ebits : (clearDecDone s).ebits = s.ebits := rfl
@[simp] theorem clearDecDone_cmdErr : (clearDecDone s).cmdErr = s.cmdErr := rfl
@[simp] theorem clearDecDone_decErr : (clearDecDone s).decErr = s.decErr := rfl
@[simp] theorem clearDecDone_encErr : (clearDecDone s).encErr = s.encErr := rfl
@[simp] theorem clearDecDone_decDone : (clearDecDone s).decDone = false := rfl
@[simp] theorem clearDecDone_encDone : (clearDecDone s).encDone = s.encDone := rfl
@[simp] theorem clearDecDone_ieDone : (clearDecDone s).ieDone = s.ieDone := rfl
@[simp] theorem clearDecDone_ieErr : (clearDecDone s).ieErr = s.ieErr := rfl
@[simp] theorem clearDecDone_ceCause : (clearDecDone s).ceCause = s.ceCause := rfl
@[simp] theorem clearDecDone_ceWord : (clearDecDone s).ceWord = s.ceWord := rfl
@[simp] theorem clearDecDone_deInfo : (clearDecDone s).deInfo = s.deInfo := rfl
@[simp] theorem clearDecDone_deBit : (clearDecDone s).deBit = s.deBit := rfl
@[simp] theorem clearDecDone_eeInfo : (clearDecDone s).eeInfo = s.eeInfo := rfl
@[simp] theorem clearDecDone_dout : (clearDecDone s).dout = s.dout := rfl
@[simp] theorem clearDecDone_eout : (clearDecDone s).eout = s.eout := rfl
@[simp] theorem clearDecDone_doutDepth : (clearDecDone s).doutDepth = s.doutDepth := rfl
@[simp] theorem clearDecDone_eoutDepth : (clearDecDone s).eoutDepth = s.eoutDepth := rfl
@[simp] theorem clearDecDone_port : (clearDecDone s).port = s.port := rfl
@[simp] theorem clearDecDone_turns : (clearDecDone s).turns = s.turns := rfl

/-! ### `clearEncDone` -/

@[simp] theorem clearEncDone_nodes : (clearEncDone s).nodes = s.nodes := rfl
@[simp] theorem clearEncDone_codes : (clearEncDone s).codes = s.codes := rfl
@[simp] theorem clearEncDone_stage : (clearEncDone s).stage = s.stage := rfl
@[simp] theorem clearEncDone_root : (clearEncDone s).root = s.root := rfl
@[simp] theorem clearEncDone_dstate : (clearEncDone s).dstate = s.dstate := rfl
@[simp] theorem clearEncDone_remain : (clearEncDone s).remain = s.remain := rfl
@[simp] theorem clearEncDone_consumed : (clearEncDone s).consumed = s.consumed := rfl
@[simp] theorem clearEncDone_cur : (clearEncDone s).cur = s.cur := rfl
@[simp] theorem clearEncDone_mid : (clearEncDone s).mid = s.mid := rfl
@[simp] theorem clearEncDone_symcount : (clearEncDone s).symcount = s.symcount := rfl
@[simp] theorem clearEncDone_estate : (clearEncDone s).estate = s.estate := rfl
@[simp] theorem clearEncDone_ebits : (clearEncDone s).ebits = s.ebits := rfl
@[simp] theorem clearEncDone_cmdErr : (clearEncDone s).cmdErr = s.cmdErr := rfl
@[simp] theorem clearEncDone_decErr : (clearEncDone s).decErr = s.decErr := rfl
@[simp] theorem clearEncDone_encErr : (clearEncDone s).encErr = s.encErr := rfl
@[simp] theorem clearEncDone_decDone : (clearEncDone s).decDone = s.decDone := rfl
@[simp] theorem clearEncDone_encDone : (clearEncDone s).encDone = false := rfl
@[simp] theorem clearEncDone_ieDone : (clearEncDone s).ieDone = s.ieDone := rfl
@[simp] theorem clearEncDone_ieErr : (clearEncDone s).ieErr = s.ieErr := rfl
@[simp] theorem clearEncDone_ceCause : (clearEncDone s).ceCause = s.ceCause := rfl
@[simp] theorem clearEncDone_ceWord : (clearEncDone s).ceWord = s.ceWord := rfl
@[simp] theorem clearEncDone_deInfo : (clearEncDone s).deInfo = s.deInfo := rfl
@[simp] theorem clearEncDone_deBit : (clearEncDone s).deBit = s.deBit := rfl
@[simp] theorem clearEncDone_eeInfo : (clearEncDone s).eeInfo = s.eeInfo := rfl
@[simp] theorem clearEncDone_dout : (clearEncDone s).dout = s.dout := rfl
@[simp] theorem clearEncDone_eout : (clearEncDone s).eout = s.eout := rfl
@[simp] theorem clearEncDone_doutDepth : (clearEncDone s).doutDepth = s.doutDepth := rfl
@[simp] theorem clearEncDone_eoutDepth : (clearEncDone s).eoutDepth = s.eoutDepth := rfl
@[simp] theorem clearEncDone_port : (clearEncDone s).port = s.port := rfl
@[simp] theorem clearEncDone_turns : (clearEncDone s).turns = s.turns := rfl

/-! ### `countBit` -/

@[simp] theorem countBit_nodes : (countBit s).nodes = s.nodes := rfl
@[simp] theorem countBit_codes : (countBit s).codes = s.codes := rfl
@[simp] theorem countBit_stage : (countBit s).stage = s.stage := rfl
@[simp] theorem countBit_root : (countBit s).root = s.root := rfl
@[simp] theorem countBit_dstate : (countBit s).dstate = s.dstate := rfl
@[simp] theorem countBit_remain : (countBit s).remain = s.remain - 1#28 := rfl
@[simp] theorem countBit_consumed : (countBit s).consumed = s.consumed + 1#28 := rfl
@[simp] theorem countBit_cur : (countBit s).cur = s.cur := rfl
@[simp] theorem countBit_mid : (countBit s).mid = s.mid := rfl
@[simp] theorem countBit_symcount : (countBit s).symcount = s.symcount := rfl
@[simp] theorem countBit_estate : (countBit s).estate = s.estate := rfl
@[simp] theorem countBit_ebits : (countBit s).ebits = s.ebits := rfl
@[simp] theorem countBit_cmdErr : (countBit s).cmdErr = s.cmdErr := rfl
@[simp] theorem countBit_decErr : (countBit s).decErr = s.decErr := rfl
@[simp] theorem countBit_encErr : (countBit s).encErr = s.encErr := rfl
@[simp] theorem countBit_decDone : (countBit s).decDone = s.decDone := rfl
@[simp] theorem countBit_encDone : (countBit s).encDone = s.encDone := rfl
@[simp] theorem countBit_ieDone : (countBit s).ieDone = s.ieDone := rfl
@[simp] theorem countBit_ieErr : (countBit s).ieErr = s.ieErr := rfl
@[simp] theorem countBit_ceCause : (countBit s).ceCause = s.ceCause := rfl
@[simp] theorem countBit_ceWord : (countBit s).ceWord = s.ceWord := rfl
@[simp] theorem countBit_deInfo : (countBit s).deInfo = s.deInfo := rfl
@[simp] theorem countBit_deBit : (countBit s).deBit = s.deBit := rfl
@[simp] theorem countBit_eeInfo : (countBit s).eeInfo = s.eeInfo := rfl
@[simp] theorem countBit_dout : (countBit s).dout = s.dout := rfl
@[simp] theorem countBit_eout : (countBit s).eout = s.eout := rfl
@[simp] theorem countBit_doutDepth : (countBit s).doutDepth = s.doutDepth := rfl
@[simp] theorem countBit_eoutDepth : (countBit s).eoutDepth = s.eoutDepth := rfl
@[simp] theorem countBit_port : (countBit s).port = s.port := rfl
@[simp] theorem countBit_turns : (countBit s).turns = s.turns := rfl

/-! ### `emitSymbol` -/

@[simp] theorem emitSymbol_nodes (q : Symbol) : (emitSymbol q s).nodes = s.nodes := rfl
@[simp] theorem emitSymbol_codes (q : Symbol) : (emitSymbol q s).codes = s.codes := rfl
@[simp] theorem emitSymbol_stage (q : Symbol) : (emitSymbol q s).stage = s.stage := rfl
@[simp] theorem emitSymbol_root (q : Symbol) : (emitSymbol q s).root = s.root := rfl
@[simp] theorem emitSymbol_dstate (q : Symbol) : (emitSymbol q s).dstate = s.dstate := rfl
@[simp] theorem emitSymbol_remain (q : Symbol) : (emitSymbol q s).remain = s.remain := rfl
@[simp] theorem emitSymbol_consumed (q : Symbol) : (emitSymbol q s).consumed = s.consumed := rfl
@[simp] theorem emitSymbol_cur (q : Symbol) : (emitSymbol q s).cur = s.root := rfl
@[simp] theorem emitSymbol_mid (q : Symbol) : (emitSymbol q s).mid = false := rfl
@[simp] theorem emitSymbol_symcount (q : Symbol) : (emitSymbol q s).symcount = s.symcount + 1#28 := rfl
@[simp] theorem emitSymbol_estate (q : Symbol) : (emitSymbol q s).estate = s.estate := rfl
@[simp] theorem emitSymbol_ebits (q : Symbol) : (emitSymbol q s).ebits = s.ebits := rfl
@[simp] theorem emitSymbol_cmdErr (q : Symbol) : (emitSymbol q s).cmdErr = s.cmdErr := rfl
@[simp] theorem emitSymbol_decErr (q : Symbol) : (emitSymbol q s).decErr = s.decErr := rfl
@[simp] theorem emitSymbol_encErr (q : Symbol) : (emitSymbol q s).encErr = s.encErr := rfl
@[simp] theorem emitSymbol_decDone (q : Symbol) : (emitSymbol q s).decDone = s.decDone := rfl
@[simp] theorem emitSymbol_encDone (q : Symbol) : (emitSymbol q s).encDone = s.encDone := rfl
@[simp] theorem emitSymbol_ieDone (q : Symbol) : (emitSymbol q s).ieDone = s.ieDone := rfl
@[simp] theorem emitSymbol_ieErr (q : Symbol) : (emitSymbol q s).ieErr = s.ieErr := rfl
@[simp] theorem emitSymbol_ceCause (q : Symbol) : (emitSymbol q s).ceCause = s.ceCause := rfl
@[simp] theorem emitSymbol_ceWord (q : Symbol) : (emitSymbol q s).ceWord = s.ceWord := rfl
@[simp] theorem emitSymbol_deInfo (q : Symbol) : (emitSymbol q s).deInfo = s.deInfo := rfl
@[simp] theorem emitSymbol_deBit (q : Symbol) : (emitSymbol q s).deBit = s.deBit := rfl
@[simp] theorem emitSymbol_eeInfo (q : Symbol) : (emitSymbol q s).eeInfo = s.eeInfo := rfl
@[simp] theorem emitSymbol_dout (q : Symbol) : (emitSymbol q s).dout = s.dout ++ [.sym q] := rfl
@[simp] theorem emitSymbol_eout (q : Symbol) : (emitSymbol q s).eout = s.eout := rfl
@[simp] theorem emitSymbol_doutDepth (q : Symbol) : (emitSymbol q s).doutDepth = s.doutDepth := rfl
@[simp] theorem emitSymbol_eoutDepth (q : Symbol) : (emitSymbol q s).eoutDepth = s.eoutDepth := rfl
@[simp] theorem emitSymbol_port (q : Symbol) : (emitSymbol q s).port = s.port := rfl
@[simp] theorem emitSymbol_turns (q : Symbol) : (emitSymbol q s).turns = s.turns := rfl

/-! ### `offerWord` -/

@[simp] theorem offerWord_nodes (w : Word) : (offerWord w s).nodes = s.nodes := rfl
@[simp] theorem offerWord_codes (w : Word) : (offerWord w s).codes = s.codes := rfl
@[simp] theorem offerWord_stage (w : Word) : (offerWord w s).stage = s.stage := rfl
@[simp] theorem offerWord_root (w : Word) : (offerWord w s).root = s.root := rfl
@[simp] theorem offerWord_dstate (w : Word) : (offerWord w s).dstate = s.dstate := rfl
@[simp] theorem offerWord_remain (w : Word) : (offerWord w s).remain = s.remain := rfl
@[simp] theorem offerWord_consumed (w : Word) : (offerWord w s).consumed = s.consumed := rfl
@[simp] theorem offerWord_cur (w : Word) : (offerWord w s).cur = s.cur := rfl
@[simp] theorem offerWord_mid (w : Word) : (offerWord w s).mid = s.mid := rfl
@[simp] theorem offerWord_symcount (w : Word) : (offerWord w s).symcount = s.symcount := rfl
@[simp] theorem offerWord_estate (w : Word) : (offerWord w s).estate = s.estate := rfl
@[simp] theorem offerWord_ebits (w : Word) : (offerWord w s).ebits = s.ebits := rfl
@[simp] theorem offerWord_cmdErr (w : Word) : (offerWord w s).cmdErr = s.cmdErr := rfl
@[simp] theorem offerWord_decErr (w : Word) : (offerWord w s).decErr = s.decErr := rfl
@[simp] theorem offerWord_encErr (w : Word) : (offerWord w s).encErr = s.encErr := rfl
@[simp] theorem offerWord_decDone (w : Word) : (offerWord w s).decDone = s.decDone := rfl
@[simp] theorem offerWord_encDone (w : Word) : (offerWord w s).encDone = s.encDone := rfl
@[simp] theorem offerWord_ieDone (w : Word) : (offerWord w s).ieDone = s.ieDone := rfl
@[simp] theorem offerWord_ieErr (w : Word) : (offerWord w s).ieErr = s.ieErr := rfl
@[simp] theorem offerWord_ceCause (w : Word) : (offerWord w s).ceCause = s.ceCause := rfl
@[simp] theorem offerWord_ceWord (w : Word) : (offerWord w s).ceWord = s.ceWord := rfl
@[simp] theorem offerWord_deInfo (w : Word) : (offerWord w s).deInfo = s.deInfo := rfl
@[simp] theorem offerWord_deBit (w : Word) : (offerWord w s).deBit = s.deBit := rfl
@[simp] theorem offerWord_eeInfo (w : Word) : (offerWord w s).eeInfo = s.eeInfo := rfl
@[simp] theorem offerWord_dout (w : Word) : (offerWord w s).dout = s.dout := rfl
@[simp] theorem offerWord_eout (w : Word) : (offerWord w s).eout = s.eout := rfl
@[simp] theorem offerWord_doutDepth (w : Word) : (offerWord w s).doutDepth = s.doutDepth := rfl
@[simp] theorem offerWord_eoutDepth (w : Word) : (offerWord w s).eoutDepth = s.eoutDepth := rfl
@[simp] theorem offerWord_port (w : Word) : (offerWord w s).port = s.port ++ [w] := rfl
@[simp] theorem offerWord_turns (w : Word) : (offerWord w s).turns = s.turns := rfl

end Sys2Proof.Machine
end

