-- ==== Sys2Proof/Laws/Memory.lean ====
section
/-! SUPPORT. The laws of the two memories: a read after a write, and the canonical form, which every write keeps. -/

namespace Sys2Proof.Machine

variable {α : Type}

theorem Memory.read_append_of_absent (d : α) (m m' : Memory α) (k : Nat) (h : ∀ e ∈ m, e.1 ≠ k) :
    Memory.read d (m ++ m') k = Memory.read d m' k := by
  induction m with
  | nil => rfl
  | cons e m ih =>
    have he : e.1 ≠ k := h e (by simp)
    simpa [Memory.read, he] using ih fun x hx => h x (by simp [hx])

theorem Memory.read_append_of_absent_right (d : α) (m m' : Memory α) (k : Nat) (h : ∀ e ∈ m', e.1 ≠ k) :
    Memory.read d (m ++ m') k = Memory.read d m k := by
  induction m with
  | nil => simpa [Memory.read] using Memory.read_append_of_absent d m' [] k h
  | cons e m ih => simp [Memory.read, ih]

theorem Memory.read_filter (d : α) (m : Memory α) (k : Nat) (p : Nat → Bool) (h : p k = true) :
    Memory.read d (m.filter fun e => p e.1) k = Memory.read d m k := by
  induction m with
  | nil => rfl
  | cons e m ih =>
    by_cases he : e.1 = k
    · simp [he, h, Memory.read]
    · by_cases hp : p e.1 = true <;> simp [hp, Memory.read, he, ih]

variable [DecidableEq α]

/-- A read of the index just written gives the entry written. -/
theorem Memory.read_write_same (d : α) (m : Memory α) (k : Nat) (v : α) :
    Memory.read d (Memory.write d m k v) k = v := by
  unfold Memory.write
  rw [List.append_assoc, Memory.read_append_of_absent]
  · by_cases hv : v = d
    · simpa [hv, Memory.read] using Memory.read_append_of_absent d (m.filter fun e => k < e.1) [] k (by simp; omega)
    · simp [hv, Memory.read]
  · simp; omega

/-- A read of any other index gives what it gave before. -/
theorem Memory.read_write_other (d : α) (m : Memory α) (k j : Nat) (v : α) (h : j ≠ k) :
    Memory.read d (Memory.write d m k v) j = Memory.read d m j := by
  have hmid : ∀ e ∈ (if v = d then [] else [(k, v)] : Memory α), e.1 ≠ j := by
    intro e he
    by_cases hv : v = d
    · simp [hv] at he
    · simp only [hv, if_false, List.mem_singleton] at he
      simpa [he] using h.symm
  unfold Memory.write
  rcases Nat.lt_or_gt_of_ne h with hlt | hgt
  · rw [Memory.read_append_of_absent_right d _ _ j (by simp; omega), Memory.read_append_of_absent_right d _ _ j hmid]
    exact Memory.read_filter d m j (fun i => decide (i < k)) (by simpa using hlt)
  · rw [List.append_assoc, Memory.read_append_of_absent d _ _ j (by simp; omega), Memory.read_append_of_absent d _ _ j hmid]
    exact Memory.read_filter d m j (fun i => decide (k < i)) (by simpa using hgt)

/-- A write replaces one entry. -/
theorem Memory.read_write (d : α) (m : Memory α) (k j : Nat) (v : α) :
    Memory.read d (Memory.write d m k v) j = if j = k then v else Memory.read d m j := by
  by_cases h : j = k
  · simp [h, Memory.read_write_same]
  · simp [h, Memory.read_write_other]

/-! ### The canonical form -/

theorem Memory.wfFrom_mono (d : α) (size lo lo' : Nat) (m : Memory α) (h : lo' ≤ lo)
    (hm : Memory.wfFrom d size lo m = true) : Memory.wfFrom d size lo' m = true := by
  cases m with
  | nil => rfl
  | cons e m =>
    simp only [Memory.wfFrom, Bool.and_eq_true, decide_eq_true_eq] at hm ⊢
    exact ⟨⟨⟨by omega, hm.1.1.2⟩, hm.1.2⟩, hm.2⟩

theorem Memory.low_le (d : α) (size lo : Nat) (m : Memory α) (hm : Memory.wfFrom d size lo m = true) :
    ∀ e ∈ m, lo ≤ e.1 := by
  induction m generalizing lo with
  | nil => simp
  | cons e m ih =>
    simp only [Memory.wfFrom, Bool.and_eq_true, decide_eq_true_eq] at hm
    intro x hx
    rcases List.mem_cons.1 hx with rfl | hx
    · exact hm.1.1.1
    · have := ih (e.1 + 1) hm.2 x hx
      omega

/-- In a canonical memory whose indices start above `k`, a write at `k` puts the entry in front. -/
theorem Memory.write_below (d : α) (size lo k : Nat) (m : Memory α) (v : α) (hk : k < lo)
    (hm : Memory.wfFrom d size lo m = true) :
    Memory.write d m k v = (if v = d then [] else [(k, v)]) ++ m := by
  have h := Memory.low_le d size lo m hm
  have h1 : m.filter (fun e => decide (e.1 < k)) = [] := by
    apply List.filter_eq_nil_iff.2
    intro e he
    have := h e he
    simp; omega
  have h2 : m.filter (fun e => decide (k < e.1)) = m := by
    apply List.filter_eq_self.2
    intro e he
    have := h e he
    simp; omega
  simp [Memory.write, h1, h2]

theorem Memory.write_cons_above (d : α) (k : Nat) (m : Memory α) (e : Nat × α) (v : α) (hk : e.1 < k) :
    Memory.write d (e :: m) k v = e :: Memory.write d m k v := by
  have h2 : ¬ k < e.1 := by omega
  simp [Memory.write, hk, h2]

theorem Memory.write_cons_same (d : α) (size : Nat) (m : Memory α) (e : Nat × α) (v : α)
    (hm : Memory.wfFrom d size (e.1 + 1) m = true) :
    Memory.write d (e :: m) e.1 v = (if v = d then [] else [(e.1, v)]) ++ m := by
  rw [← Memory.write_below d size (e.1 + 1) e.1 m v (by omega) hm]
  simp [Memory.write]

theorem Memory.wfFrom_write (d : α) (size lo k : Nat) (m : Memory α) (v : α) (hlo : lo ≤ k) (hk : k < size)
    (hm : Memory.wfFrom d size lo m = true) : Memory.wfFrom d size lo (Memory.write d m k v) = true := by
  induction m generalizing lo with
  | nil => by_cases hv : v = d <;> simp [Memory.write, hv, Memory.wfFrom, hlo, hk]
  | cons e m ih =>
    have hm' := hm
    simp only [Memory.wfFrom, Bool.and_eq_true, decide_eq_true_eq] at hm
    rcases Nat.lt_trichotomy k e.1 with hlt | heq | hgt
    · rw [Memory.write_below d size e.1 k (e :: m) v hlt (by simp [Memory.wfFrom, hm.1.1.2, hm.1.2, hm.2])]
      by_cases hv : v = d
      · simpa [hv] using hm'
      · simp only [hv, if_false, List.singleton_append, Memory.wfFrom, Bool.and_eq_true, decide_eq_true_eq]
        refine ⟨⟨⟨hlo, hk⟩, hv⟩, ⟨⟨by omega, hm.1.1.2⟩, hm.1.2⟩, hm.2⟩
    · subst heq
      rw [Memory.write_cons_same d size m e v hm.2]
      by_cases hv : v = d
      · simpa [hv] using Memory.wfFrom_mono d size _ lo m (by omega) hm.2
      · simp [hv, Memory.wfFrom, hlo, hk, hm.2]
    · rw [Memory.write_cons_above d k m e v hgt]
      simp only [Memory.wfFrom, Bool.and_eq_true, decide_eq_true_eq]
      exact ⟨hm.1, ih (e.1 + 1) hgt hm.2⟩

/-- A write inside the memory keeps the canonical form. -/
theorem Memory.wf_write (d : α) (size k : Nat) (m : Memory α) (v : α) (hk : k < size)
    (hm : Memory.wf d size m = true) : Memory.wf d size (Memory.write d m k v) = true :=
  Memory.wfFrom_write d size 0 k m v (Nat.zero_le k) hk hm

/-- A memory with nothing listed, which is what reset leaves, is in canonical form. -/
theorem Memory.wf_nil (d : α) (size : Nat) : Memory.wf d size ([] : Memory α) = true := rfl

/-! ### The node memory and the code table -/

/-- A node write replaces one entry. -/
theorem nodeAt_writeNode (s : State) (a b : NodeAddr) (n : Node) :
    nodeAt (writeNode s a n) b = if b = a then n else nodeAt s b := by
  simp [nodeAt, Memory.read_write, BitVec.toNat_inj]

/-- A code write replaces one entry. -/
theorem codeAt_writeCode (s : State) (q r : Symbol) (e : CodeEntry) :
    codeAt (writeCode s q e) r = if r = q then e else codeAt s r := by
  simp [codeAt, Memory.read_write, BitVec.toNat_inj]

/-- A node write keeps the node memory's canonical form. -/
theorem nodes_wf_writeNode (s : State) (a : NodeAddr) (n : Node)
    (h : Memory.wf .empty Config.nodeDepth s.nodes = true) :
    Memory.wf .empty Config.nodeDepth (writeNode s a n).nodes = true :=
  Memory.wf_write _ _ _ _ _ a.isLt h

/-- A code write keeps the code table's canonical form. -/
theorem codes_wf_writeCode (s : State) (q : Symbol) (e : CodeEntry)
    (h : Memory.wf .invalid Config.nsym s.codes = true) :
    Memory.wf .invalid Config.nsym (writeCode s q e).codes = true :=
  Memory.wf_write _ _ _ _ _ q.isLt h

/-- A node read looks at the node memory alone. -/
theorem nodeAt_congr (s t : State) (a : NodeAddr) (h : t.nodes = s.nodes) : nodeAt t a = nodeAt s a := by
  simp [nodeAt, h]

/-- A code read looks at the code table alone. -/
theorem codeAt_congr (s t : State) (q : Symbol) (h : t.codes = s.codes) : codeAt t q = codeAt s q := by
  simp [codeAt, h]

end Sys2Proof.Machine
end

