-- ==== Sys2Proof/Laws/Ops.lean ====
section
/-! SUPPORT. One lemma per shared operation, saying once everything it does, so that no proof unfolds it: raising an
error, the session checks, the operand forms, and reset. -/

namespace Sys2Proof.Machine

/-! ### Raising an error -/

/-- All that a rejected command does (R120). -/
theorem commandError_eq (cause : Status) (cmd : Word) (s : State) :
    commandError cause cmd s =
      { s with
        cmdErr := true
        ceCause := if s.cmdErr then s.ceCause else cause.code
        ceWord := if s.cmdErr then s.ceWord else cmd } := by
  unfold commandError
  cases h : s.cmdErr
  · simp
  · cases s
    simp_all

/-- All that a decode data error does (R121). -/
theorem decodeFault_eq (st : Status) (node : NodeAddr) (target : Option NodeAddr) (bit : Bool) (i : Count) (s : State) :
    decodeFault st node target bit i s =
      { s with
        dout := s.dout ++ [.done st s.symcount]
        decDone := true
        decErr := true
        deInfo := if s.decErr then s.deInfo else decodeErrorInfo st node target bit
        deBit := if s.decErr then s.deBit else i
        dstate := .faulted } := by
  unfold decodeFault
  cases h : s.decErr <;> simp [h, endDecode, pushDout]

/-- All that an encode data error does (R122). -/
theorem encodeFault_eq (st : Status) (sym : Symbol) (s : State) :
    encodeFault st sym s =
      { s with
        eout := s.eout ++ [.done st s.ebits]
        encDone := true
        encErr := true
        eeInfo := if s.encErr then s.eeInfo else encodeErrorInfo st sym
        estate := .faulted } := by
  unfold encodeFault
  cases h : s.encErr <;> simp [h, endEncode, pushEout]

/-- The parts of `de_info` (R40, R121). -/
theorem decodeErrorInfo_parts (st : Status) (node : NodeAddr) (target : Option NodeAddr) (bit : Bool) :
    (decodeErrorInfo st node target bit).extractLsb' 0 4 = st.code ∧
    (decodeErrorInfo st node target bit).extractLsb' 4 1 = BitVec.ofBool target.isSome ∧
    (decodeErrorInfo st node target bit).extractLsb' 5 9 = node ∧
    (decodeErrorInfo st node target bit).extractLsb' 14 9 = target.getD 0#9 ∧
    (decodeErrorInfo st node target bit).extractLsb' 23 1 = BitVec.ofBool bit := by
  refine ⟨?_, ?_, ?_, ?_, ?_⟩ <;>
  · apply BitVec.eq_of_getLsbD_eq
    intro i hi
    simp only [decodeErrorInfo, BitVec.getLsbD_extractLsb', BitVec.getLsbD_append]
    repeat' split
    all_goals first | omega | (simp [hi]; done) | (simp only [hi, decide_true, Bool.true_and]; congr 1; omega)

/-- The parts of `ee_info` (R42, R122). -/
theorem encodeErrorInfo_parts (st : Status) (sym : Symbol) :
    (encodeErrorInfo st sym).extractLsb' 0 4 = st.code ∧ (encodeErrorInfo st sym).extractLsb' 4 8 = sym := by
  refine ⟨?_, ?_⟩ <;>
  · apply BitVec.eq_of_getLsbD_eq
    intro i hi
    simp only [encodeErrorInfo, BitVec.getLsbD_extractLsb', BitVec.getLsbD_append]
    repeat' split
    all_goals first | omega | simp [hi]

/-! ### Session checks -/

theorem whenDecoderIdle_idle (w : Word) (s : State) (rest : State → State) (h : s.dstate = .idle) :
    whenDecoderIdle w s rest = rest s := by simp [whenDecoderIdle, h]

theorem whenDecoderIdle_open (w : Word) (s : State) (rest : State → State) (h : s.dstate ≠ .idle) :
    whenDecoderIdle w s rest = commandError .sequence w s := by
  unfold whenDecoderIdle
  cases hd : s.dstate <;> simp_all

theorem whenEncoderIdle_idle (w : Word) (s : State) (rest : State → State) (h : s.estate = .idle) :
    whenEncoderIdle w s rest = rest s := by simp [whenEncoderIdle, h]

theorem whenEncoderIdle_open (w : Word) (s : State) (rest : State → State) (h : s.estate ≠ .idle) :
    whenEncoderIdle w s rest = commandError .sequence w s := by
  unfold whenEncoderIdle
  cases hd : s.estate <;> simp_all

/-! ### Operand forms -/

/-- A staged chunk, bit by bit (R89). -/
theorem getLsbD_stageChunk (g : Stage) (k : BitVec 4) (data : BitVec 16) (j : Nat) :
    (stageChunk g k data).getLsbD j =
      if 16 * k.toNat ≤ j ∧ j < 16 * k.toNat + 16 then data.getLsbD (j - 16 * k.toNat) else g.getLsbD j := by
  have hk := k.isLt
  have hones : ∀ i, (0xFFFF#256).getLsbD i = decide (i < 16) := by
    intro i
    by_cases hi : i < 16
    · have : ∀ i : Fin 16, (0xFFFF#256).getLsbD i = decide ((i : Nat) < 16) := by decide
      simpa using this ⟨i, hi⟩
    · have : (0xFFFF#256) = (0xFFFF#16).setWidth 256 := by decide
      rw [this, BitVec.getLsbD_setWidth]
      simp [hi, BitVec.getLsbD_of_ge (0xFFFF#16) i (by omega)]
  by_cases h1 : j < 16 * k.toNat
  · have hn : ¬ (16 * k.toNat ≤ j ∧ j < 16 * k.toNat + 16) := by omega
    simp only [hn, if_false]
    simp only [stageChunk, BitVec.getLsbD_or, BitVec.getLsbD_and, BitVec.getLsbD_not, BitVec.getLsbD_shiftLeft, h1]
    simp
    by_cases hj : j < 256
    · simp [hj]
    · simp [hj, BitVec.getLsbD_of_ge g j (by omega)]
  · by_cases h2 : j < 16 * k.toNat + 16
    · have hj : j < 256 := by omega
      simp only [stageChunk, BitVec.getLsbD_or, BitVec.getLsbD_and, BitVec.getLsbD_not, BitVec.getLsbD_shiftLeft,
        BitVec.getLsbD_setWidth, hones]
      have h3 : j - 16 * k.toNat < 16 := by omega
      have h4 : j - 16 * k.toNat < 256 := by omega
      simp [hj, h1, h2, h3, h4, show 16 * k.toNat ≤ j by omega]
    · have h3 : ¬ j - 16 * k.toNat < 16 := by omega
      simp only [stageChunk, BitVec.getLsbD_or, BitVec.getLsbD_and, BitVec.getLsbD_not, BitVec.getLsbD_shiftLeft,
        BitVec.getLsbD_setWidth, hones]
      simp [h1, h2, h3, BitVec.getLsbD_of_ge data (j - 16 * k.toNat) (by omega)]
      by_cases hj : j < 256
      · simp [hj]
      · simp [BitVec.getLsbD_of_ge g j (by omega)]

/-- The code WR_CODE stores, bit by bit: the staged bits below the length, 0 from it on (R50, R90). -/
theorem getLsbD_stagedBits (g : Stage) (len : BitVec 8) (j : Nat) :
    (stagedBits g len).getLsbD j = (decide (j < len.toNat) && g.getLsbD j) := by
  have hl := len.isLt
  unfold stagedBits
  rw [BitVec.getLsbD_ofNat, Nat.testBit_mod_two_pow]
  by_cases h : j < len.toNat
  · simp [h, BitVec.getLsbD, show j < 255 by omega]
  · simp [h]

theorem length_deliveredBits (k : BitVec 4) (data : BitVec 16) : (deliveredBits k data).length = k.toNat + 1 := by
  simp [deliveredBits]

theorem length_pathOf (len : BitVec 8) (bits : CodeBits) : (pathOf len bits).length = len.toNat := by
  simp [pathOf]

/-! ### Reset -/

/-- All that the reset event does (R136). -/
theorem resetBlock_eq (s : State) :
    resetBlock s =
      { nodes := [], codes := [], stage := 0#256, root := 0#9, dstate := .idle, remain := 0#28, consumed := 0#28
        cur := 0#9, mid := false, symcount := 0#28, estate := .idle, ebits := 0#28, cmdErr := false, decErr := false
        encErr := false, decDone := false, encDone := false, ieDone := false, ieErr := false, ceCause := 0#4
        ceWord := 0#32, deInfo := 0#24, deBit := 0#28, eeInfo := 0#12, dout := [], eout := []
        doutDepth := s.doutDepth, eoutDepth := s.eoutDepth, port := s.port, turns := s.turns } := rfl

end Sys2Proof.Machine
end

