-- ==== Sys2Proof/Laws/PerInstr.lean ====
section
/-! SUPPORT. Facts about every instruction as syntax, one lemma per constructor. -/

namespace Sys2Proof.Laws.RoundTrip

/-- Decoding the word of a well-formed instruction gives the instruction back (R68, R70). -/
def Statement (i : Instr) : Prop := i.wellFormed = true → decode (encode i) = .ok i

theorem nop : Statement .nop := fun _ => by decide

theorem wrLeaf (a : NodeAddr) (sym : Symbol) : Statement (.wrLeaf a sym) := fun _ => by
  simp [decode, decodeLeaf, unlessReserved, opField, aField, symField, encode, extract_or, extract_put_same,
    extract_put_disjoint]

theorem wrInternal (a l r : NodeAddr) : Statement (.wrInternal a l r) := fun _ => by
  simp [decode, decodeInternal, unlessReserved, opField, aField, lField, rField, encode, extract_or, extract_put_same,
    extract_put_disjoint]

theorem clrNode (a : NodeAddr) : Statement (.clrNode a) := fun _ => by
  simp [decode, decodeT, unlessReserved, opField, aField, encode, extract_or, extract_put_same, extract_put_disjoint]

theorem clrTree : Statement .clrTree := fun _ => by decide

theorem setRoot (a : NodeAddr) : Statement (.setRoot a) := fun _ => by
  simp [decode, decodeT, unlessReserved, opField, aField, encode, extract_or, extract_put_same, extract_put_disjoint]

theorem codeStage (k : BitVec 4) (data : BitVec 16) : Statement (.codeStage k data) := fun _ => by
  simp [decode, decodeStage, unlessReserved, opField, kField, dataField, encode, extract_or, extract_put_same,
    extract_put_disjoint]

theorem wrCode (sym : Symbol) (len : BitVec 8) : Statement (.wrCode sym len) := fun h => by
  have h' : len ≠ 0#8 := by simpa [Instr.wellFormed] using h
  simp [decode, decodeWrCode, opField, symField, lenField, encode, extract_or, extract_put_same, extract_put_disjoint,
    h']

theorem clrCode (sym : Symbol) : Statement (.clrCode sym) := fun _ => by
  simp [decode, decodeS, unlessReserved, opField, symField, encode, extract_or, extract_put_same, extract_put_disjoint]

theorem clrCodes : Statement .clrCodes := fun _ => by decide

theorem encStart : Statement .encStart := fun _ => by decide

theorem encSym (sym : Symbol) : Statement (.encSym sym) := fun _ => by
  simp [decode, decodeS, unlessReserved, opField, symField, encode, extract_or, extract_put_same, extract_put_disjoint]

theorem encEnd : Statement .encEnd := fun _ => by decide

theorem decStart (n : Count) : Statement (.decStart n) := fun _ => by
  simp [decode, opField, nField, encode, extract_or, extract_put_same, extract_put_disjoint]

theorem decBits (k : BitVec 4) (data : BitVec 16) : Statement (.decBits k data) := fun h => by
  have h' : data >>> (k.toNat + 1) = 0#16 := by simpa [Instr.wellFormed] using h
  have hk : kField (encode (.decBits k data)) = k := by
    simp [kField, encode, extract_or, extract_put_same, extract_put_disjoint]
  have hd : dataField (encode (.decBits k data)) = data := by
    simp [dataField, encode, extract_or, extract_put_same, extract_put_disjoint]
  have ho : opField (encode (.decBits k data)) = 0xE#4 := by
    simp [opField, encode, extract_or, extract_put_same, extract_put_disjoint]
  have hr : (encode (.decBits k data)).extractLsb' 16 8 = 0#8 := by
    simp [encode, extract_or, extract_put_disjoint]
  simp [decode, decodeBits, hk, hd, ho, hr, h']

theorem setCtrl (arg : BitVec 16) : Statement (.setCtrl arg) := fun h => by
  have h' : arg.extractLsb' 2 14 = 0#14 := by simpa [Instr.wellFormed] using h
  simp [decode, decodeY, opField, kField, dataField, encode, extract_or, extract_put_same, extract_put_disjoint,
    extract_put_within, h']

theorem clrStatus (arg : BitVec 16) : Statement (.clrStatus arg) := fun h => by
  have h' : arg.extractLsb' 0 4 = 0#4 ∧ arg.extractLsb' 9 7 = 0#7 := by simpa [Instr.wellFormed] using h
  simp [decode, decodeY, opField, kField, dataField, encode, extract_or, extract_put_same, extract_put_disjoint,
    extract_put_within, h']

theorem abort (arg : BitVec 16) : Statement (.abort arg) := fun h => by
  have h' : arg.extractLsb' 2 14 = 0#14 := by simpa [Instr.wellFormed] using h
  simp [decode, decodeY, opField, kField, dataField, encode, extract_or, extract_put_same, extract_put_disjoint,
    extract_put_within, h']

end Sys2Proof.Laws.RoundTrip
end

