-- ==== Sys2Proof/Laws/Step.lean ====
section
/-! SUPPORT. What a turn does, said once: the executor's step, and each other agent's. -/

namespace Sys2Proof.Machine

/-! ### The executor's step (R18) -/

/-- Acceptance looks at the two FIFOs and their depths alone (R57). -/
theorem accepts_congr {s t : State} (w : Word) (h1 : t.dout = s.dout) (h2 : t.eout = s.eout)
    (h3 : t.doutDepth = s.doutDepth) (h4 : t.eoutDepth = s.eoutDepth) : accepts t w = accepts s w := by
  unfold accepts freeDout freeEout
  rw [h1, h2, h3, h4]

theorem executorStep_empty (s : State) (h : s.port = []) : executorStep s = .next s := by
  simp [executorStep, h]

theorem executorStep_held (s : State) (w : Word) (rest : List Word) (h : s.port = w :: rest)
    (ha : accepts s w = false) : executorStep s = .next s := by
  unfold executorStep
  split
  · rfl
  · rw [h] at *
    simp_all

theorem executorStep_taken (s : State) (w : Word) (rest : List Word) (h : s.port = w :: rest)
    (ha : accepts s w = true) : executorStep s = executeWord w { s with port := rest } := by
  unfold executorStep
  split
  · simp_all
  · rename_i cmd rest' h'
    obtain ⟨rfl, rfl⟩ : cmd = w ∧ rest' = rest := by simpa [h'] using h
    rw [ha]

theorem executeWord_legal (w : Word) (i : Instr) (s : State) (h : decode w = .ok i) : executeWord w s = exec i s := by
  simp [executeWord, h]

theorem executeWord_illegal (w : Word) (r : Illegal) (s : State) (h : decode w = .error r) :
    executeWord w s = .next (commandError .illegal w s) := by
  simp [executeWord, h]

/-! ### Turns (R17) -/

theorem step_without_turns (s : State) (h : s.turns = []) : step s = executorStep s := by
  simp [step, nextTurn, h]

theorem step_of_turn (s : State) (t : Turn) (ts : List Turn) (h : s.turns = t :: ts) :
    step s = takeTurn t { s with turns := ts } := by
  unfold step nextTurn
  split
  · simp_all
  · rename_i t' ts' h'
    obtain ⟨rfl, rfl⟩ : t' = t ∧ ts' = ts := by simpa [h'] using h
    rfl

/-- A step is the executor's on the state less the turn, if there is one, or another agent's turn. -/
theorem step_cases (s : State) :
    (∃ ts, (s.turns = [] ∧ ts = [] ∨ s.turns = .executor :: ts) ∧ step s = executorStep { s with turns := ts }) ∨
    (∃ w ts, s.turns = .host w :: ts ∧ step s = .next (offerWord w { s with turns := ts })) ∨
    (∃ ts, s.turns = .doutConsumer :: ts ∧ step s = .next (popDout { s with turns := ts })) ∨
    (∃ ts, s.turns = .eoutConsumer :: ts ∧ step s = .next (popEout { s with turns := ts })) ∨
    (∃ ts, s.turns = .reset :: ts ∧ step s = .next (resetBlock { s with turns := ts })) := by
  cases h : s.turns with
  | nil =>
    refine .inl ⟨[], .inl ⟨rfl, rfl⟩, ?_⟩
    rw [step_without_turns s h]
    congr 1
    cases s
    simp_all
  | cons t ts =>
    rw [step_of_turn s t ts h]
    cases t with
    | executor => exact .inl ⟨ts, .inr rfl, rfl⟩
    | host w => exact .inr (.inl ⟨w, ts, rfl, rfl⟩)
    | doutConsumer => exact .inr (.inr (.inl ⟨ts, rfl, rfl⟩))
    | eoutConsumer => exact .inr (.inr (.inr (.inl ⟨ts, rfl, rfl⟩)))
    | reset => exact .inr (.inr (.inr (.inr ⟨ts, rfl, rfl⟩)))

/-- The executor's step on a state: nothing, or an accepted word's command, or its rejection as ILLEGAL. -/
theorem executorStep_cases (s : State) :
    executorStep s = .next s ∨
    (∃ w rest i, s.port = w :: rest ∧ accepts s w = true ∧ decode w = .ok i ∧
      executorStep s = exec i { s with port := rest }) ∨
    (∃ w rest r, s.port = w :: rest ∧ accepts s w = true ∧ decode w = .error r ∧
      executorStep s = .next (commandError .illegal w { s with port := rest })) := by
  cases h : s.port with
  | nil => exact .inl (executorStep_empty s h)
  | cons w rest =>
    cases ha : accepts s w with
    | false => exact .inl (executorStep_held s w rest h ha)
    | true =>
      rw [executorStep_taken s w rest h ha]
      cases hd : decode w with
      | ok i => exact .inr (.inl ⟨w, rest, i, rfl, ha, hd, executeWord_legal w i _ hd⟩)
      | error r => exact .inr (.inr ⟨w, rest, r, rfl, ha, hd, executeWord_illegal w r _ hd⟩)

/-- A command's word, taken as the host numbers its bits, is itself. -/
theorem tableWord_toNat (w : Word) : tableWord 32 w.toNat = w := by
  apply BitVec.eq_of_toNat_eq
  have := w.isLt
  simp only [tableWord, BitVec.toNat_ofNat]
  omega

end Sys2Proof.Machine
end

