-- ==== Sys2Proof/Laws/Walk.lean ====
section
/-! SUPPORT. What one bit of a decode session can do, said once, and how a list of bits is walked. -/

namespace Sys2Proof.Machine

/-- The three things the cursor's entry and a bit can give (R106): the bit finds no node, it completes a symbol, or it
moves the cursor to an INTERNAL node. -/
theorem walkCursor_cases (b : Bool) (i : Count) (s : State) :
    ((nodeAt s s.cur = .empty ∧ walkCursor b i s = decodeFault .invalidCode s.cur none b i s) ∨
      (∃ l r, nodeAt s s.cur = .internal l r ∧ nodeAt s (selectChild b l r) = .empty ∧
        walkCursor b i s = decodeFault .invalidCode s.cur (some (selectChild b l r)) b i s)) ∨
    (∃ q, (nodeAt s s.cur = .leaf q ∨
        ∃ l r, nodeAt s s.cur = .internal l r ∧ nodeAt s (selectChild b l r) = .leaf q) ∧
      walkCursor b i s = emitSymbol q s) ∨
    (∃ l r l' r', nodeAt s s.cur = .internal l r ∧ nodeAt s (selectChild b l r) = .internal l' r' ∧
      walkCursor b i s = { s with cur := selectChild b l r, mid := true }) := by
  cases h : nodeAt s s.cur with
  | empty => simp [walkCursor, h]
  | leaf q => simp [walkCursor, h]
  | internal l r =>
    cases h' : nodeAt s (selectChild b l r) <;> simp [walkCursor, h, h']

/-- The end of a session's bits (R107). -/
theorem endOfBits_eq (s : State) :
    endOfBits s =
      match s.dstate with
      | .idle => { s with dstate := .idle }
      | .faulted => { s with dstate := .idle }
      | .active =>
        match s.mid with
        | true => { decodeFault .truncatedStream s.cur none false s.consumed s with dstate := .idle }
        | false => { endDecode .ok s with dstate := .idle } := by
  unfold endOfBits
  cases h : s.dstate <;> simp
  cases hm : s.mid <;> simp [hm]

/-- A bit of an ACTIVE session (R106). -/
theorem walkBit_active (s : State) (b : Bool) (h : s.dstate = .active) :
    walkBit s b =
      if (walkCursor b s.consumed (countBit s)).remain = 0#28 then endOfBits (walkCursor b s.consumed (countBit s))
      else walkCursor b s.consumed (countBit s) := by
  simp [walkBit, h]

/-- A bit of a FAULTED session (R106). -/
theorem walkBit_faulted (s : State) (b : Bool) (h : s.dstate = .faulted) :
    walkBit s b = if s.remain - 1#28 = 0#28 then { countBit s with dstate := .idle } else countBit s := by
  unfold walkBit
  simp [h, endOfBits_eq]

/-- The cursor's step leaves the counts of R106 as they were after counting the bit. -/
theorem walkCursor_counts (b : Bool) (i : Count) (s : State) :
    (walkCursor b i s).remain = s.remain ∧ (walkCursor b i s).consumed = s.consumed ∧
    (walkCursor b i s).root = s.root ∧ (walkCursor b i s).nodes = s.nodes := by
  rcases walkCursor_cases b i s with (⟨_, h⟩ | ⟨_, _, _, _, h⟩) | ⟨_, _, h⟩ | ⟨_, _, _, _, _, _, h⟩ <;>
    simp [h, decodeFault_eq]

theorem walkBits_nil (s : State) : walkBits [] s = s := rfl

theorem walkBits_cons (b : Bool) (bs : List Bool) (s : State) : walkBits (b :: bs) s = walkBits bs (walkBit s b) := rfl

theorem walkBits_append (xs ys : List Bool) (s : State) : walkBits (xs ++ ys) s = walkBits ys (walkBits xs s) := by
  simp [walkBits, List.foldl_append]

/-- A bit never writes the tables, the root or the counts of the other unit. -/
theorem endOfBits_counts (s : State) :
    (endOfBits s).remain = s.remain ∧ (endOfBits s).consumed = s.consumed ∧ (endOfBits s).root = s.root ∧
    (endOfBits s).nodes = s.nodes ∧ (endOfBits s).dstate = .idle := by
  rw [endOfBits_eq]
  cases s.dstate <;> simp
  cases s.mid <;> simp [decodeFault_eq]

/-- A bit of an open session is counted, the tree stays, and the session is over exactly when its bits are (R106, R107). -/
theorem walkBit_counts (s : State) (b : Bool) (h : s.dstate ≠ .idle) :
    (walkBit s b).remain = s.remain - 1#28 ∧ (walkBit s b).consumed = s.consumed + 1#28 ∧
    (walkBit s b).root = s.root ∧ (walkBit s b).nodes = s.nodes ∧
    ((walkBit s b).dstate = .idle ↔ s.remain - 1#28 = 0#28) := by
  cases hd : s.dstate with
  | idle => exact absurd hd h
  | faulted =>
    rw [walkBit_faulted s b hd]
    by_cases hr : s.remain - 1#28 = 0#28 <;> simp [hr, hd]
  | active =>
    rw [walkBit_active s b hd]
    have hc := walkCursor_counts b s.consumed (countBit s)
    simp only [countBit_remain, countBit_consumed, countBit_root, countBit_nodes] at hc
    have he := endOfBits_counts (walkCursor b s.consumed (countBit s))
    by_cases hr : s.remain - 1#28 = 0#28
    · simp [hc, hr, he]
    · simp only [hc.1, hr, if_false, hc, true_and, iff_false]
      rcases walkCursor_cases b s.consumed (countBit s) with (⟨_, h⟩ | ⟨_, _, _, _, h⟩) | ⟨_, _, h⟩ | ⟨_, _, _, _, _, _, h⟩ <;>
        simp [h, decodeFault_eq, hd]

/-- Counting down from at least one bit. -/
theorem toNat_sub_one (n : Count) (h : 1 ≤ n.toNat) : (n - 1#28).toNat = n.toNat - 1 := by
  have := n.isLt
  rw [BitVec.toNat_sub]
  simp
  omega

/-- Counting up below the largest count. -/
theorem toNat_add_one (n : Count) (h : n.toNat + 1 < 2 ^ 28) : (n + 1#28).toNat = n.toNat + 1 := by
  rw [BitVec.toNat_add]
  simp
  omega

/-- Bits of an open session that expects at least as many: they are counted, and the session is over exactly when its
bits are. -/
theorem walkBits_counts (bs : List Bool) (s : State) (h : s.dstate ≠ .idle) (hr : bs.length ≤ s.remain.toNat)
    (hpos : 1 ≤ s.remain.toNat) :
    (walkBits bs s).remain.toNat = s.remain.toNat - bs.length ∧
    (walkBits bs s).consumed = s.consumed + BitVec.ofNat 28 bs.length ∧
    (walkBits bs s).root = s.root ∧ (walkBits bs s).nodes = s.nodes ∧
    ((walkBits bs s).dstate = .idle ↔ s.remain.toNat = bs.length) := by
  induction bs generalizing s with
  | nil =>
    have : ¬ s.remain.toNat = 0 := by omega
    simp [walkBits_nil, h, this]
  | cons b bs ih =>
    have hc := walkBit_counts s b h
    have hz : s.remain - 1#28 = 0#28 ↔ s.remain.toNat - 1 = 0 := by
      rw [← BitVec.toNat_inj, toNat_sub_one _ hpos]
      simp
    simp only [List.length_cons] at hr ⊢
    rw [walkBits_cons]
    by_cases h1 : s.remain.toNat = 1
    · have hb : bs = [] := List.length_eq_zero_iff.1 (by omega)
      subst hb
      have hi : (walkBit s b).dstate = .idle := hc.2.2.2.2.2 (hz.2 (by omega))
      rw [walkBits_nil]
      refine ⟨?_, ?_, hc.2.2.1, hc.2.2.2.1, ?_⟩
      · simp only [hc.1, List.length_nil]
        rw [toNat_sub_one _ hpos]
      · simp [hc.2.1]
      · simp [hi, h1]
    · have hn : (walkBit s b).dstate ≠ .idle := fun e => h1 (by have := hz.1 (hc.2.2.2.2.1 e); omega)
      have hr' : (walkBit s b).remain.toNat = s.remain.toNat - 1 := by rw [hc.1, toNat_sub_one _ hpos]
      have := ih (walkBit s b) hn (by omega) (by omega)
      refine ⟨by omega, ?_, by rw [this.2.2.1, hc.2.2.1], by rw [this.2.2.2.1, hc.2.2.2.1], ?_⟩
      · rw [this.2.1, hc.2.1, BitVec.add_assoc]
        congr 1
        apply BitVec.eq_of_toNat_eq
        simp [BitVec.toNat_add, Nat.add_comm]
      · rw [this.2.2.2.2]
        omega

end Sys2Proof.Machine
end

