-- ==== Sys2Proof/Tests/Slice0.lean ====
section
/-! SUPPORT. Tests of the model against the vectors of spec/95_test_vectors.md and the examples of the command rules, and
for every obligation with hypotheses a witness that meets them. -/

namespace Sys2Proof.Tests

open Sys2Proof.Machine

/-! ### Helpers -/

/-- The state after reset with the vectors' depths. -/
def base : State := { State.reset with doutDepth := 32, eoutDepth := 16 }

/-- The node memory of tree A (95 §1.1). -/
def treeA : Memory Node :=
  [(0, .internal 1#9 2#9), (1, .leaf 0x61#8), (2, .internal 3#9 4#9), (3, .internal 5#9 6#9), (4, .internal 7#9 8#9),
    (5, .leaf 0x63#8), (6, .leaf 0x64#8), (7, .leaf 0x62#8), (8, .leaf 0x72#8)]

/-- The code table of table A (95 §1.1). -/
def tableA : Memory CodeEntry :=
  [(0x61, .code 1#8 0#255), (0x62, .code 3#8 3#255), (0x63, .code 3#8 1#255), (0x64, .code 3#8 5#255),
    (0x72, .code 3#8 7#255)]

/-- Tree A and table A with no session. -/
def demo : State := { base with nodes := treeA, codes := tableA }

/-- A decode session on tree A with `n` bits to come. -/
def decoding (n : Count) : State := { demo with dstate := .active, remain := n }

/-- An encode session on table A. -/
def encoding : State := { demo with estate := .active }

/-- The next state of an outcome. -/
def after (o : Host.Outcome State Fault Refusal) : Option State :=
  match o with
  | .next t => some t
  | .fault _ => none
  | .refused _ => none

/-- The state one step after a word is offered. -/
def runWord (s : State) (w : Nat) : Option State := after (step (s.withFetchWord 32 w))

/-- A rejection: the state with the command-error record of R120. -/
def rejected (s : State) (cause : BitVec 4) (w : Word) : State := { s with cmdErr := true, ceCause := cause, ceWord := w }

/-! ### Decoding: the words of 95 §2 and of the rules' examples, written field by field from R68 -/

theorem test_decode_nop : decode 0b0000_0000000000000000000000000000#32 = .ok .nop := by decide
theorem test_decode_wr_leaf : decode 0b0001_0_000000001_0000000000_01100001#32 = .ok (.wrLeaf 1#9 0x61#8) := by decide
theorem test_decode_wr_internal :
    decode 0b0010_0_000000011_000000101_000000110#32 = .ok (.wrInternal 3#9 5#9 6#9) := by decide
theorem test_decode_wr_internal_largest : decode 0x27FFFFFF#32 = .ok (.wrInternal 511#9 511#9 511#9) := by decide
theorem test_decode_clr_node : decode 0b0011_0_000000101_000000000000000000#32 = .ok (.clrNode 5#9) := by decide
theorem test_decode_clr_tree : decode 0b0100_0000000000000000000000000000#32 = .ok .clrTree := by decide
theorem test_decode_set_root : decode 0b0101_0_000000111_000000000000000000#32 = .ok (.setRoot 7#9) := by decide
theorem test_decode_code_stage :
    decode 0b0110_0011_00000000_0001001000110100#32 = .ok (.codeStage 3#4 0x1234#16) := by decide
theorem test_decode_wr_code : decode 0b0111_000000000000_00010100_01111000#32 = .ok (.wrCode 0x78#8 20#8) := by decide
theorem test_decode_clr_code : decode 0b1000_00000000000000000000_01111010#32 = .ok (.clrCode 0x7A#8) := by decide
theorem test_decode_clr_codes : decode 0b1001_0000000000000000000000000000#32 = .ok .clrCodes := by decide
theorem test_decode_enc_start : decode 0b1010_0000000000000000000000000000#32 = .ok .encStart := by decide
theorem test_decode_enc_sym : decode 0b1011_00000000000000000000_01100001#32 = .ok (.encSym 0x61#8) := by decide
theorem test_decode_enc_end : decode 0b1100_0000000000000000000000000000#32 = .ok .encEnd := by decide
theorem test_decode_dec_start : decode 0b1101_0000000000000000000000010111#32 = .ok (.decStart 23#28) := by decide
theorem test_decode_dec_bits :
    decode 0b1110_0010_00000000_0000000000000110#32 = .ok (.decBits 2#4 0b110#16) := by decide
theorem test_decode_set_ctrl : decode 0b1111_0000_00000000_0000000000000011#32 = .ok (.setCtrl 3#16) := by decide
theorem test_decode_clr_status : decode 0b1111_0001_00000000_0000000111110000#32 = .ok (.clrStatus 0x1F0#16) := by decide
theorem test_decode_abort : decode 0b1111_0010_00000000_0000000000000011#32 = .ok (.abort 3#16) := by decide

theorem test_refuse_nop_bit_0 : decode 0x00000001#32 = .error .reservedBit := by decide
theorem test_refuse_wr_leaf_bit_8 : decode 0x10040161#32 = .error .reservedBit := by decide
theorem test_refuse_wr_leaf_bit_27 : decode 0x18000000#32 = .error .reservedBit := by decide
theorem test_refuse_clr_node_bit_0 : decode 0x30140001#32 = .error .reservedBit := by decide
theorem test_refuse_code_stage_bit_16 : decode 0x60010000#32 = .error .reservedBit := by decide
theorem test_refuse_wr_code_length_0 : decode 0x70000061#32 = .error .zeroLength := by decide
theorem test_refuse_enc_sym_bit_12 : decode 0xB0001061#32 = .error .reservedBit := by decide
theorem test_refuse_dec_bits_data_1 : decode 0xE0000002#32 = .error .dataAboveCount := by decide
theorem test_refuse_dec_bits_bit_23 : decode 0xE0800000#32 = .error .reservedBit := by decide
theorem test_refuse_set_ctrl_arg_2 : decode 0xF0000004#32 = .error .argBits := by decide
theorem test_refuse_clr_status_arg_0 : decode 0xF1000001#32 = .error .argBits := by decide
theorem test_refuse_clr_status_arg_9 : decode 0xF1000200#32 = .error .argBits := by decide
theorem test_refuse_sub_3 : decode 0xF3000000#32 = .error .unknownSub := by decide

theorem test_table_word : decodeTableWord 32 0xE2000006 = some (.decBits 2#4 0b110#16) := by decide

/-! ### WellFormed: an ill-formed term for each check -/

theorem test_wf_refuses_length_0 : (Instr.wrCode 0x61#8 0#8).wellFormed = false := by decide
theorem test_wf_refuses_data_above_count : (Instr.decBits 1#4 0b100#16).wellFormed = false := by decide
theorem test_wf_refuses_set_ctrl_arg_2 : (Instr.setCtrl 4#16).wellFormed = false := by decide
theorem test_wf_refuses_clr_status_arg_3 : (Instr.clrStatus 8#16).wellFormed = false := by decide
theorem test_wf_refuses_clr_status_arg_9 : (Instr.clrStatus 0x200#16).wellFormed = false := by decide
theorem test_wf_refuses_abort_arg_15 : (Instr.abort 0x8000#16).wellFormed = false := by decide
theorem test_wf_takes_boundary_values :
    (Instr.wrCode 0x61#8 255#8).wellFormed = true ∧ (Instr.decBits 15#4 0xFFFF#16).wellFormed = true ∧
      (Instr.clrStatus 0x1F0#16).wellFormed = true ∧ (Instr.abort 3#16).wellFormed = true := by decide

/-! ### One step of each command -/

/-- T1. -/
theorem test_wr_leaf : (runWord base 0x10040061).map (·.nodes) = some [(1, .leaf 0x61#8)] := by decide
/-- T7: rejected with SEQUENCE in an open session. -/
theorem test_wr_leaf_in_session :
    runWord (decoding 3#28) 0x10040061 = some (rejected (decoding 3#28) 9#4 0x10040061#32) := by decide
/-- T2: an INTERNAL node replaces a leaf. -/
theorem test_wr_internal :
    (runWord { base with nodes := [(1, .leaf 0x61#8)] } 0x20040403).map (·.nodes) = some [(1, .internal 2#9 3#9)] := by
  decide
/-- T3: children are not checked. -/
theorem test_wr_internal_cycle :
    (runWord base 0x20000000).map (·.nodes) = some [(0, .internal 0#9 0#9)] := by decide
/-- T4. -/
theorem test_clr_node :
    (runWord demo 0x30200000).map (fun t => (nodeAt t 8#9, nodeAt t 7#9)) = some (.empty, .leaf 0x62#8) := by decide
/-- T5, T9: the encoder state does not matter, and the root stays. -/
theorem test_clr_tree :
    (runWord { demo with estate := .active, root := 4#9 } 0x40000000).map (fun t => (t.nodes, t.root)) =
      some ([], 4#9) := by decide
/-- T6. -/
theorem test_set_root : (runWord base 0x501C0000).map (·.root) = some 7#9 := by decide
/-- T8. -/
theorem test_set_root_faulted :
    runWord { demo with dstate := .faulted, remain := 1#28 } 0x50080000 =
      some (rejected { demo with dstate := .faulted, remain := 1#28 } 9#4 0x50080000#32) := by decide
/-- K9: CODE_STAGE in an open encode session. -/
theorem test_code_stage :
    (runWord { encoding with stage := 0xFFFF#256 } 0x63001234).map (·.stage) = some 0x123400000000FFFF#256 := by decide
/-- The last chunk. -/
theorem test_code_stage_last :
    (runWord base 0x6F008000).map (·.stage.getLsbD 255) = some true := by decide
/-- K4: 20 bits, the bits of `stage` above them left out. -/
theorem test_wr_code :
    (runWord { base with stage := 0xFAF1CD#256 } 0x70001478).map (fun t => codeAt t 0x78#8) =
      some (.code 20#8 0xAF1CD#255) := by decide
/-- K8. -/
theorem test_wr_code_in_session :
    runWord encoding 0x70000161 = some (rejected encoding 9#4 0x70000161#32) := by decide
/-- K6. -/
theorem test_clr_code :
    (runWord demo 0x80000062).map (fun t => (codeAt t 0x62#8, codeAt t 0x61#8)) =
      some (.invalid, .code 1#8 0#255) := by decide
/-- K7, K10: the decoder state does not matter, and `stage` stays. -/
theorem test_clr_codes :
    (runWord { decoding 3#28 with stage := 5#256 } 0x90000000).map (fun t => (t.codes, t.stage)) =
      some ([], 5#256) := by decide
/-- R99. -/
theorem test_enc_start :
    (runWord { demo with ebits := 9#28 } 0xA0000000).map (fun t => (t.estate, t.ebits)) = some (.active, 0#28) := by
  decide
/-- E3. -/
theorem test_enc_start_in_session :
    runWord encoding 0xA0000000 = some (rejected encoding 9#4 0xA0000000#32) := by decide
/-- E4: a symbol with no code. -/
theorem test_enc_sym_missing :
    (runWord { encoding with ebits := 1#28 } 0xB000007A).map (fun t => (t.eout, t.eeInfo, t.estate, t.ebits)) =
      some ([.done .missingSymbol 1#28], 0x7A3#12, .faulted, 1#28) := by decide
/-- E5: a total of exactly CNT_MAX fits. -/
theorem test_enc_sym_count_max :
    (runWord { encoding with ebits := 268435454#28 } 0xB0000061).map (fun t => (t.eout, t.ebits)) =
      some ([.cw 1#8 0#255], 268435455#28) := by decide
/-- R101's example. -/
theorem test_enc_end :
    (runWord { encoding with ebits := 2#28 } 0xC0000000).map (fun t => (t.eout, t.encDone, t.estate)) =
      some ([.done .ok 2#28], true, .idle) := by decide
/-- E7. -/
theorem test_enc_end_faulted :
    runWord { demo with estate := .faulted } 0xC0000000 = some { demo with estate := .idle } := by decide
/-- D8. -/
theorem test_dec_start_zero :
    (runWord base 0xD0000000).map (fun t => (t.dout, t.dstate, t.decDone)) =
      some ([.done .ok 0#28], .idle, true) := by decide
/-- D10. -/
theorem test_dec_start_in_session :
    runWord (decoding 2#28) 0xD0000005 = some (rejected (decoding 2#28) 9#4 0xD0000005#32) := by decide
/-- D5: bit 2 selects the missing right child of node 4. -/
theorem test_dec_bits_invalid_code :
    (runWord { decoding 6#28 with nodes := treeA.take 8 } 0xE2000007).map
        (fun t => (t.dout, t.deInfo, t.deBit, readRegister t 0x6#4, t.remain)) =
      some ([.done .invalidCode 0#28], 0x820091#24, 2#28, 0x80000004#32, 3#28) := by decide
/-- D15: "1", then 0, 0, 0. -/
theorem test_dec_bits_resumes :
    (runWord { decoding 3#28 with consumed := 1#28, cur := 2#9, mid := true } 0xE2000000).map (·.dout) =
      some [.sym 0x63#8, .sym 0x61#8, .done .ok 2#28] := by decide
/-- S2. -/
theorem test_set_ctrl :
    (runWord { base with decErr := true } 0xF0000002).map (fun t => (readRegister t 0x2#4, readRegister t 0x1#4)) =
      some (0x2#32, 0x220#32) := by decide
/-- S3. -/
theorem test_clr_status :
    runWord { demo with decErr := true, deInfo := 0x42#24, deBit := 1#28, cmdErr := true, ceCause := 8#4 } 0xF1000020 =
      some { demo with cmdErr := true, ceCause := 8#4 } := by decide
/-- S9: an illegal CLR_STATUS clears nothing; S4: the first cause stays. -/
theorem test_clr_status_illegal :
    runWord (rejected demo 9#4 5#32) 0xF1000011 = some (rejected demo 9#4 5#32) := by decide
/-- S8. -/
theorem test_abort_encode :
    runWord { encoding with ebits := 4#28 } 0xF2000002 =
      some { demo with ebits := 4#28, eout := [.done .aborted 4#28], encDone := true } := by decide
/-- D12. -/
theorem test_abort_decode :
    (runWord { decoding 2#28 with consumed := 1#28, cur := 2#9, mid := true } 0xF2000001).map
        (fun t => (t.dout, t.dstate, t.remain, t.consumed, t.decErr)) =
      some ([.done .aborted 0#28], .idle, 0#28, 1#28, false) := by decide
/-- S1. -/
theorem test_nop : runWord demo 0x00000000 = some demo := by decide
/-- R1: `PARAM` after reset, with the depths of P4, and the reset of everything else. -/
theorem test_reset :
    (after (step { decoding 3#28 with eoutDepth := 8, turns := [.reset] })).map
        (fun t => (t, readRegister t 0xF#4)) = some ({ base with eoutDepth := 8 }, 0x00080020#32) := by decide
/-- D2: the registers after TRUNCATED_STREAM. -/
theorem test_registers_truncated :
    (runWord (decoding 1#28) 0xE0000001).map (fun t => (readRegister t 0x1#4, readRegister t 0xB#4,
      readRegister t 0xC#4, readRegister t 0x6#4)) = some (0xA0#32, 0x42#32, 1#32, 0x80000002#32) := by decide
/-- A2: with one token too many the word holds, and the step changes nothing but the turn. -/
theorem test_held :
    runWord { base with doutDepth := 17, dout := [.sym 0x30#8] } 0xEF000000 =
      some { base with doutDepth := 17, dout := [.sym 0x30#8], port := [0xEF000000#32] } := by decide
/-- A8: acceptance does not look at legality. -/
theorem test_held_illegal :
    accepts { base with eoutDepth := 1, eout := [.done .ok 0#28] } 0xB0001061#32 = false := by decide
/-- D13's words, as the assembler gives them from text. -/
theorem test_assemble_stream :
    assembleText "DEC_STREAM \"01101110100010101101110\" ; 1.1".toList =
      some [.decStart 23#28, .decBits 15#4 0x5176#16, .decBits 6#4 0x3B#16] := by decide
/-- K4's words. -/
theorem test_assemble_load_code :
    (assembleText "LOAD_CODE 'x', \"10110011100011110101\"".toList).map (·.map encode) =
      some [0x6000F1CD#32, 0x6100000A#32, 0x70001478#32] := by decide

/-- P3: a consumer discards both sessions. -/
theorem test_consume_dout :
    consumeDout [] [.sym 0x61#8, .sym 0x62#8, .done .truncatedStream 2#28, .done .invalidCode 0#28] = [none, none] := by
  decide
/-- 1.2: the bits of "ab", and their number. -/
theorem test_consume_eout :
    consumeEout [] [.cw 1#8 0#255, .cw 1#8 1#255, .done .ok 2#28] = [some ([false, true], 2#28)] := by decide

/-! ### Witnesses: for each obligation with hypotheses, a state and operands that meet them -/

/-- The "ab" tree and table (95 §1.2). -/
def ab : State :=
  { base with
    nodes := [(0, .internal 1#9 2#9), (1, .leaf 0x61#8), (2, .leaf 0x62#8)]
    codes := [(0x61, .code 1#8 0#255), (0x62, .code 1#8 1#255)] }

/-- A decode session on the "ab" tree with three bits to come. -/
def abDecoding : State := { ab with dstate := .active, remain := 3#28 }

/-- The tree and table of P2. -/
def single : State := { base with nodes := [(0, .leaf 0x61#8)], codes := [(0x61, .code 1#8 0#255)] }

theorem codes_form_ab (q : Symbol) (len : BitVec 8) (bits : CodeBits) (h : codeAt ab q = .code len bits) :
    len ≠ 0#8 ∧ ∀ i, len.toNat ≤ i → bits.getLsbD i = false := by
  simp only [codeAt, ab, Memory.read] at h
  split at h
  · cases h
    exact ⟨by decide, by simp⟩
  · split at h
    · cases h
      refine ⟨by decide, fun i hi => ?_⟩
      have hi : 1 ≤ i := hi
      simp
      omega
    · cases h

theorem inv_ab : Inv ab := by
  constructor
  case codes_form => exact codes_form_ab
  all_goals simp [ab, base, State.reset, Config.cntMax] <;> decide

theorem inv_abDecoding : Inv abDecoding := by
  have h := inv_ab
  refine { h with open_remain := ?_, open_count := ?_, at_root := ?_, mid_internal := ?_, idle_remain := ?_ }
  all_goals simp [abDecoding, ab, base, State.reset, Config.cntMax]

/-- The addresses a path leads to on the "ab" tree. -/
theorem follow_ab (a : NodeAddr) (p : List Bool) (h : follow ab 0#9 p = some a) :
    p = [] ∧ a = 0#9 ∨ p = [false] ∧ a = 1#9 ∨ p = [true] ∧ a = 2#9 := by
  match p with
  | [] => exact .inl ⟨rfl, by simpa [follow] using h.symm⟩
  | [false] => exact .inr (.inl ⟨rfl, by simpa [follow, childOf, nodeAt, ab, Memory.read, selectChild] using h.symm⟩)
  | [true] => exact .inr (.inr ⟨rfl, by simpa [follow, childOf, nodeAt, ab, Memory.read, selectChild] using h.symm⟩)
  | false :: b :: p => simp [follow, childOf, nodeAt, ab, Memory.read, selectChild] at h
  | true :: b :: p => simp [follow, childOf, nodeAt, ab, Memory.read, selectChild] at h

theorem reach_ab (a : NodeAddr) : Reach ab a ↔ a = 0#9 ∨ a = 1#9 ∨ a = 2#9 := by
  constructor
  · rintro ⟨p, h⟩
    rcases follow_ab a p h with ⟨_, h⟩ | ⟨_, h⟩ | ⟨_, h⟩ <;> simp [h]
  · rintro (rfl | rfl | rfl)
    · exact ⟨[], rfl⟩
    · exact ⟨[false], rfl⟩
    · exact ⟨[true], rfl⟩

theorem wellFormed_ab : TreeWellFormed ab := by
  constructor
  · decide
  · intro a b c ha h
    rcases (reach_ab a).1 ha with rfl | rfl | rfl <;> cases b <;> cases h <;> decide
  · intro a p ha hp h
    rcases (reach_ab a).1 ha with rfl | rfl | rfl
    · rcases follow_ab _ p h with ⟨h', _⟩ | ⟨_, h'⟩ | ⟨_, h'⟩
      · exact hp h'
      · exact absurd h' (by decide)
      · exact absurd h' (by decide)
    · cases p with
      | nil => exact hp rfl
      | cons b p => exact absurd h (by cases b <;> simp [follow, childOf, nodeAt, ab, Memory.read])
    · cases p with
      | nil => exact hp rfl
      | cons b p => exact absurd h (by cases b <;> simp [follow, childOf, nodeAt, ab, Memory.read])
  · intro a b a' b' c ha ha' h h'
    rcases (reach_ab a).1 ha with rfl | rfl | rfl <;> cases b <;> cases h <;>
      rcases (reach_ab a').1 ha' with rfl | rfl | rfl <;> cases b' <;> cases h' <;> decide
  · intro a a' q ha ha' h h'
    rcases (reach_ab a).1 ha with rfl | rfl | rfl <;> cases h <;>
      rcases (reach_ab a').1 ha' with rfl | rfl | rfl <;> cases h' <;> rfl

theorem consistent_ab : Consistent ab := by
  constructor
  · exact wellFormed_ab
  · intro q
    constructor
    · intro h
      simp only [codeAt, ab, Memory.read] at h
      split at h
      · rename_i hq
        exact ⟨1#9, (reach_ab _).2 (by simp), by rw [show q = 0x61#8 from BitVec.eq_of_toNat_eq hq.symm]; decide⟩
      · split at h
        · rename_i hq
          exact ⟨2#9, (reach_ab _).2 (by simp), by rw [show q = 0x62#8 from BitVec.eq_of_toNat_eq hq.symm]; decide⟩
        · exact absurd rfl h
    · rintro ⟨a, ha, h⟩
      rcases (reach_ab a).1 ha with rfl | rfl | rfl <;> cases h <;> decide
  · intro q len bits l r _ h
    simp only [codeAt, ab, Memory.read] at h
    split at h
    · rename_i hq
      cases h
      exact ⟨1#9, by decide, by rw [show q = 0x61#8 from BitVec.eq_of_toNat_eq hq.symm]; decide⟩
    · split at h
      · rename_i hq
        cases h
        exact ⟨2#9, by decide, by rw [show q = 0x62#8 from BitVec.eq_of_toNat_eq hq.symm]; decide⟩
      · cases h
  · intro q h
    exact absurd h (by simp [nodeAt, ab, Memory.read, base, State.reset])

/-! #### Encoding, steps and agents -/

theorem witness_DecodeOfEncodeIsTheInstruction :
    (Instr.decBits 15#4 0xFFFF#16).wellFormed = true ∧ (Instr.wrCode 0xFF#8 255#8).wellFormed = true := by decide

theorem witness_DecodedWordsEncodeBack : decode 0xEF00FFFF#32 = .ok (.decBits 15#4 0xFFFF#16) := by decide

theorem witness_LegalWordsAreTheRowsOfTheOpcodeMap :
    decode 0x7000FF61#32 = .ok (.wrCode 0x61#8 255#8) ∧
      ∃ r ∈ opmap, r.mnemonic = "WR_CODE" ∧ r.hits 0x7000FF61#32 = true := by decide

theorem witness_ReservedEncodingsAreRejectedAsIllegal :
    ReservedEncoding 0xF3000000#32 ∧ accepts { base with port := [0xF3000000#32] } 0xF3000000#32 = true := by
  refine ⟨?_, by decide⟩
  repeat first | exact .inl (by decide) | apply Or.inr

theorem witness_StepRunsTheDecodedCommand :
    accepts { base with port := [0xD0000001#32] } 0xD0000001#32 = true ∧ decode 0xD0000001#32 = .ok (.decStart 1#28) ∧
      ({ base with port := [0xD0000001#32] } : State).turns = [] ∧
      ({ base with port := [0xD0000001#32], turns := [.executor] } : State).turns = [.executor] := by decide

theorem witness_PlacedWordIsRunByTheNextStep :
    (Instr.decBits 15#4 0#16).wellFormed = true ∧ accepts base (encode (.decBits 15#4 0#16)) = true := by decide

/-- A1 to A9, each clause of R57 at its boundary. -/
theorem witness_CommandsAreAcceptedWhenTheirFifoHasRoom :
    accepts { base with doutDepth := 17 } 0xEF000000#32 = true ∧
      accepts { base with doutDepth := 17, dout := [.sym 0#8] } 0xEF000000#32 = false ∧
      accepts { base with doutDepth := 17, dout := [.sym 0#8] } 0xEE000000#32 = true ∧
      accepts { base with doutDepth := 17, dout := List.replicate 17 (.sym 0#8) } 0xD0000000#32 = false ∧
      accepts { base with doutDepth := 17, dout := List.replicate 16 (.sym 0#8) } 0xD0000000#32 = true ∧
      accepts { base with eoutDepth := 1, eout := [.done .ok 0#28] } 0xA0000000#32 = true ∧
      accepts { base with eoutDepth := 1, eout := [.done .ok 0#28] } 0xC0000000#32 = false ∧
      accepts { base with eoutDepth := 1, eout := [.done .ok 0#28] } 0xF2000001#32 = true ∧
      accepts { base with eoutDepth := 1, eout := [.done .ok 0#28] } 0xF2000002#32 = false ∧
      accepts { base with eoutDepth := 1 } 0xB0000061#32 = true := by decide

/-- Words of each kind R57 names, a held word with each of the three turns, and a word with both FIFOs in use. -/
theorem witness_CommandsAreAccepted_kinds :
    opField 0xD0000000#32 = 0xD#4 ∧ opField 0xE0000000#32 = 0xE#4 ∧ opField 0xB0000000#32 = 0xB#4 ∧
      opField 0xC0000000#32 = 0xC#4 ∧ (opField 0xF2000003#32 = 0xF#4 ∧ kField 0xF2000003#32 = 2#4) ∧
      (opField 0xF1000003#32 ∉ [0xB#4, 0xC#4, 0xD#4, 0xE#4] ∧
        ¬ (opField 0xF1000003#32 = 0xF#4 ∧ kField 0xF1000003#32 = 2#4)) ∧
      accepts { base with eoutDepth := 1, eout := [.done .ok 0#28], port := [0xC0000000#32] } 0xC0000000#32 = false ∧
      (17 ≤ base.doutDepth ∧ 1 ≤ base.eoutDepth ∧ base.dout = [] ∧ base.eout = []) := by decide

theorem witness_PopsTakeTheHeadToken :
    ({ base with dout := [.sym 1#8], turns := [.doutConsumer] } : State).dout = [.sym 1#8] ∧
      ({ base with eout := [.cw 1#8 0#255], turns := [.eoutConsumer] } : State).eout = [.cw 1#8 0#255] ∧
      ({ base with turns := [.doutConsumer] } : State).dout = [] ∧
      ({ base with turns := [.eoutConsumer] } : State).eout = [] := by decide

theorem witness_FifosKeepTheOrderOfTokens :
    ∃ t, step { ab with port := [0xD0000000#32] } = .next t ∧ t.dout = [.done .ok 0#28] := ⟨_, rfl, by decide⟩

theorem witness_ResetEventRestoresEveryResetValue :
    ({ abDecoding with turns := [.reset] } : State).turns = [.reset] := rfl

theorem witness_StepKeepsTheInvariant_open :
    ∃ t, Inv { abDecoding with port := [0xE0000000#32] } ∧
      step { abDecoding with port := [0xE0000000#32] } = .next t ∧ t.dstate ≠ .idle :=
  ⟨_, { inv_abDecoding with }, rfl, by decide⟩

theorem witness_StepKeepsTheInvariant_start :
    ∃ t, Inv { ab with port := [0xD0000003#32] } ∧ step { ab with port := [0xD0000003#32] } = .next t ∧
      t.dstate ≠ .idle :=
  ⟨_, { inv_ab with }, rfl, by decide⟩

/-! #### Whole-machine rules -/

theorem witness_OnlyTheirCommandsWriteTheTables :
    (∃ t, exec .clrTree ab = .next t ∧ t.nodes ≠ ab.nodes) ∧ (∃ t, exec (.setRoot 511#9) ab = .next t ∧ t.root ≠ ab.root) ∧
      (∃ t, exec .clrCodes ab = .next t ∧ t.codes ≠ ab.codes) ∧
      (∃ t, exec (.codeStage 15#4 1#16) ab = .next t ∧ t.stage ≠ ab.stage) :=
  ⟨⟨_, rfl, by decide⟩, ⟨_, rfl, by decide⟩, ⟨_, rfl, by decide⟩, ⟨_, rfl, by decide⟩⟩

theorem witness_StickyBitsAndCapturesAreKeptUntilCleared :
    ∃ t, exec (.clrStatus 0#16) { ab with cmdErr := true, decErr := true, encErr := true, decDone := true, encDone := true } =
        .next t ∧ (0#16).getLsbD 4 = false ∧ (0#16).getLsbD 8 = false := ⟨_, rfl, by decide, by decide⟩

theorem witness_DecoderDependsOnlyOnItsOwnState :
    ({ ab with estate := .active } : State).decoderView = ab.decoderView ∧
      (∃ t, exec (.decStart 1#28) ab = .next t) ∧ (∃ t, exec (.decStart 1#28) { ab with estate := .active } = .next t) ∧
      abDecoding.dstate ≠ .idle ∧ drivesDecoder (.abort 2#16) = false ∧ drivesDecoder .clrTree = false :=
  ⟨rfl, ⟨_, rfl⟩, ⟨_, rfl⟩, by decide, by decide, by decide⟩

/-! #### Commands: the session states, the cursors and the entries the statements name -/

theorem witness_TreeCommandsNeedAnIdleDecoder :
    isTreeCommand (.setRoot 0#9) = true ∧ isTreeCommand .clrTree = true ∧ abDecoding.dstate ≠ .idle ∧
      ab.dstate = .idle := by decide

theorem witness_CodeCommandsNeedAnIdleEncoder :
    isCodeCommand .clrCodes = true ∧ isCodeCommand (.wrCode 0#8 1#8) = true ∧ encoding.estate ≠ .idle ∧
      ab.estate = .idle := by decide

/-- For NodeWritesReplaceOneEntry, ClearTreeAndSetRoot, ClearCodesMakesEntriesInvalid,
EncStartOpensASession, DecStartOpensASession, DecBitsIsRejectedWhole and EncEndClosesTheSession. -/
theorem witness_sessions_idle_and_open :
    ab.dstate = .idle ∧ ab.estate = .idle ∧ abDecoding.dstate ≠ .idle ∧ encoding.estate = .active ∧
      ({ ab with estate := .faulted } : State).estate = .faulted ∧
      abDecoding.remain.toNat < (3#4 : BitVec 4).toNat + 1 ∧ (1#28 : Count) ≠ 0#28 := by decide

/-- Both ends of the lengths a legal WR_CODE has. -/
theorem witness_WriteCodeStoresTheStagedBits :
    ab.estate = .idle ∧ (Instr.wrCode 0x61#8 1#8).wellFormed = true ∧ (Instr.wrCode 0x61#8 255#8).wellFormed = true := by
  decide

theorem witness_LoadCodeStoresThePath :
    1 ≤ (List.replicate 255 true).length ∧ (List.replicate 255 true).length ≤ 255 ∧ 1 ≤ [false].length ∧
      ab.estate = .idle :=
  ⟨by rw [List.length_replicate]; decide, by rw [List.length_replicate], by decide, by decide⟩

theorem witness_EncSymPushesTheCode :
    encoding.estate = .active ∧ codeAt { encoding with ebits := 268435454#28 } 0x61#8 = .code 1#8 0#255 ∧
      (268435454#28 : Count).toNat + (1#8 : BitVec 8).toNat ≤ 2 ^ 28 - 1 := by decide

theorem witness_EncSymDataErrorsEndTheSession :
    encoding.estate = .active ∧ codeAt encoding 0x7A#8 = .invalid ∧
      codeAt { encoding with ebits := 268435455#28 } 0x61#8 = .code 1#8 0#255 ∧
      2 ^ 28 - 1 < (268435455#28 : Count).toNat + (1#8 : BitVec 8).toNat := by decide

theorem witness_EncodeSessionPushesItsCodesAndOneEnd :
    ab.estate = .idle ∧ (∀ q ∈ [0x61#8, 0x62#8], codePath ab q ≠ none) ∧
      (codedBits ab [0x61#8, 0x62#8]).length ≤ 2 ^ 28 - 1 ∧ codePath ab 0x7A#8 = none := by decide

theorem witness_DecBitsIsItsBitsOneByOne :
    abDecoding.dstate ≠ .idle ∧ (2#4 : BitVec 4).toNat + 1 ≤ abDecoding.remain.toNat := by decide

/-- The three cursors of OneBitWalksTheTree: an INTERNAL node over a LEAF and over an INTERNAL node, and a LEAF. -/
theorem witness_OneBitWalksTheTree :
    (decoding 2#28).dstate = .active ∧ 2 ≤ (decoding 2#28).remain.toNat ∧
      nodeAt (decoding 2#28) (decoding 2#28).cur = .internal 1#9 2#9 ∧ nodeAt (decoding 2#28) 1#9 = .leaf 0x61#8 ∧
      nodeAt (decoding 2#28) 2#9 = .internal 3#9 4#9 ∧
      nodeAt { single with dstate := .active, remain := 2#28 } 0#9 = .leaf 0x61#8 := by decide

/-- The cursors of the three data errors: an EMPTY root, an EMPTY child, and an INTERNAL child on the last bit. -/
theorem witness_DecodeDataErrorsAreRecordedAndEndTheOutput :
    nodeAt { base with dstate := .active, remain := 2#28 } 0#9 = .empty ∧
      nodeAt { ab with nodes := [(0, .internal 1#9 511#9)], dstate := .active, remain := 2#28 } 0#9 = .internal 1#9 511#9 ∧
      nodeAt { ab with nodes := [(0, .internal 1#9 511#9)], dstate := .active, remain := 2#28 } 511#9 = .empty ∧
      (decoding 1#28).remain = 1#28 ∧ nodeAt (decoding 1#28) 0#9 = .internal 1#9 2#9 ∧
      nodeAt (decoding 1#28) 2#9 = .internal 3#9 4#9 := by decide

theorem witness_LastBitEndsTheSession :
    (decoding 1#28).remain = 1#28 ∧ (decoding 1#28).dstate = .active ∧
      nodeAt (decoding 1#28) 0#9 = .internal 1#9 2#9 ∧ nodeAt (decoding 1#28) 1#9 = .leaf 0x61#8 ∧
      nodeAt { base with dstate := .active, remain := 1#28 } 0#9 = .empty ∧
      nodeAt { ab with nodes := [(0, .internal 1#9 511#9)], dstate := .active, remain := 1#28 } 0#9 =
        .internal 1#9 511#9 ∧
      nodeAt { ab with nodes := [(0, .internal 1#9 511#9)], dstate := .active, remain := 1#28 } 511#9 = .empty ∧
      ({ ab with dstate := .faulted, remain := 1#28 } : State).dstate = .faulted := by decide

theorem witness_FaultedSessionDiscardsItsBits :
    ({ ab with dstate := .faulted, remain := 16#28 } : State).dstate = .faulted ∧
      (15#4 : BitVec 4).toNat + 1 ≤ ({ ab with dstate := .faulted, remain := 16#28 } : State).remain.toNat := by decide

theorem witness_DecodeSessionEndsWithOneEnd :
    ab.dstate = .idle ∧ (sessionBits [(15#4, 0x5176#16), (6#4, 0x3B#16)]).length = (23#28 : Count).toNat ∧
      (sessionBits []).length = (0#28 : Count).toNat := by decide

theorem witness_DecoderAgreesWithTheReference :
    ab.dstate = .idle ∧ Represents ab ab.root (.node (.leaf 0x61#8) (.leaf 0x62#8)) ∧
      Represents single single.root (.leaf 0x61#8) ∧ (sessionBits [(1#4, 2#16)]).length = (2#28 : Count).toNat :=
  ⟨by decide, ⟨1#9, 2#9, by decide, by unfold Represents; decide, by unfold Represents; decide⟩,
    by unfold Represents; decide, by decide⟩

theorem witness_WellFormedTreesNeverGiveInvalidCode :
    ab.dstate = .idle ∧ TreeWellFormed ab ∧ (sessionBits [(1#4, 2#16)]).length = (2#28 : Count).toNat ∧
      ∃ t, execAll (decodeSession 2#28 [(1#4, 2#16)]) ab = .next t :=
  ⟨by decide, wellFormed_ab, by decide, ⟨_, rfl⟩⟩

theorem witness_DegenerateTreeGivesItsSymbolForEveryBit :
    single.dstate = .idle ∧ nodeAt single single.root = .leaf 0x61#8 ∧
      (sessionBits [(3#4, 0b1010#16)]).length = (4#28 : Count).toNat := by decide

/-! #### Registers, tables and the round trip -/

/-- For RegistersShowTheirFields and CaptureRegistersShowTheFirstError. -/
theorem witness_Inv :
    Inv ab ∧ Inv { ab with decErr := true, deInfo := 0x42#24, deBit := 1#28, encErr := true, eeInfo := 0x7A3#12 } :=
  ⟨inv_ab, { inv_ab with
    de_clear := fun h => absurd h (by decide), de_status := fun _ => .inr (by decide)
    ee_clear := fun h => absurd h (by decide), ee_status := fun _ => .inl (by decide) }⟩

theorem witness_EncodeThenDecodeGivesTheSymbolsBack :
    Inv ab ∧ Consistent ab ∧ ab.dstate = .idle ∧ ab.estate = .idle ∧
      (∀ q ∈ [0x61#8, 0x62#8], codePath ab q ≠ none) ∧ (codedBits ab [0x61#8, 0x62#8]).length ≤ 2 ^ 28 - 1 ∧
      sessionBits [(1#4, 2#16)] = codedBits ab [0x61#8, 0x62#8] :=
  ⟨inv_ab, consistent_ab, by decide, by decide, by decide, by decide, by decide⟩

theorem witness_CodesArePrefixFree :
    Consistent ab ∧ nodeAt ab ab.root = .internal 1#9 2#9 ∧ codePath ab 0x61#8 = some [false] ∧
      codePath ab 0x62#8 = some [true] ∧ (0x61#8 : Symbol) ≠ 0x62#8 :=
  ⟨consistent_ab, by decide, by decide, by decide, by decide⟩

/-- Node addresses for the "ab" tree. -/
def abAddr (p : List Bool) : NodeAddr := if p = [] then 0#9 else if p = [false] then 1#9 else 2#9

theorem witness_LoadingATreeAndItsTableIsConsistent :
    Loadable abAddr (.node (.leaf 0x61#8) (.leaf 0x62#8)) ∧ Loadable (fun _ => 511#9) (.leaf 0x61#8) ∧
      ab.dstate = .idle ∧ ab.estate = .idle := by
  refine ⟨⟨?_, by decide, by decide⟩, ⟨?_, by decide, by decide⟩, by decide, by decide⟩
  · intro p q hp hq h
    simp only [nodePaths, List.nil_append, List.cons_append, List.mem_cons, List.not_mem_nil, or_false] at hp hq
    rcases hp with rfl | rfl | rfl <;> rcases hq with rfl | rfl | rfl <;> simp_all [abAddr]
  · intro p q hp hq _
    simp only [nodePaths, List.mem_cons, List.not_mem_nil, or_false] at hp hq
    rw [hp, hq]

/-- Both sides of each bound the assembler's operands have. -/
theorem witness_AssemblerRefusesOperandsThatDoNotFit :
    assemble (.wrLeaf 511 255) = some [.wrLeaf 511#9 255#8] ∧ assemble (.wrLeaf 512 0) = none ∧
      assemble (.wrLeaf 0 256) = none ∧ assemble (.wrInternal 511 0 512) = none ∧
      assemble (.clrNode 512) = none ∧ assemble (.setRoot 511) = some [.setRoot 511#9] ∧
      assemble (.codeStage 16 0) = none ∧ assemble (.codeStage 15 65536) = none ∧
      assemble (.wrCode 255 256) = none ∧ assemble (.clrCode 256) = none ∧
      assemble (.encSym 255) = some [.encSym 255#8] ∧
      assemble (.decStart 268435455) = some [.decStart 268435455#28] ∧ assemble (.decStart 268435456) = none ∧
      assemble (.decBits 16 65535) = some [.decBits 15#4 0xFFFF#16] ∧ assemble (.decBits 17 0) = none ∧
      assemble (.decBits 0 0) = none ∧ assemble (.setCtrl 65536) = none ∧
      assemble (.clrStatus 0x1F0) = some [.clrStatus 0x1F0#16] ∧ assemble (.abort 65536) = none ∧
      assemble (.decStream []) = some [.decStart 0#28] ∧ assemble (.loadCode 0 []) = none ∧
      assemble (.loadCode 256 [true]) = none ∧
      assemble (.loadCode 255 [true]) = some [.codeStage 0#4 1#16, .wrCode 255#8 1#8] := by decide

/-- The premises of each clause of StatusCodesAreThoseOfTheTable. -/
theorem witness_StatusCodesAreThoseOfTheTable :
    (legal 0xF3000000#32 = false ∧ ab.cmdErr = false) ∧ ab.estate = .idle ∧
      (abDecoding.dstate ≠ .idle ∧ abDecoding.remain.toNat < (3#4 : BitVec 4).toNat + 1 ∧ abDecoding.cmdErr = false) ∧
      (encoding.estate = .active ∧ encoding.encErr = false ∧ codeAt encoding 0x7A#8 = .invalid) ∧
      (codeAt { encoding with ebits := 268435455#28 } 0x61#8 = .code 1#8 0#255 ∧
        2 ^ 28 - 1 < (268435455#28 : Count).toNat + (1#8 : BitVec 8).toNat) ∧
      (abDecoding.dstate = .active ∧ (1#16).getLsbD 0 = true) := by decide

end Sys2Proof.Tests
end

section
/-! PROOFS. What a word that decodes is, the room acceptance leaves, and what a command can do: a rejection, or its
effect. The proofs about commands go through `exec_result` and its cases. -/

namespace Sys2Proof

/-- The `OP` of a command's row in the opcode map (R70). -/
def Instr.opcode : Instr → BitVec 4
  | .nop => 0x0#4
  | .wrLeaf _ _ => 0x1#4
  | .wrInternal _ _ _ => 0x2#4
  | .clrNode _ => 0x3#4
  | .clrTree => 0x4#4
  | .setRoot _ => 0x5#4
  | .codeStage _ _ => 0x6#4
  | .wrCode _ _ => 0x7#4
  | .clrCode _ => 0x8#4
  | .clrCodes => 0x9#4
  | .encStart => 0xA#4
  | .encSym _ => 0xB#4
  | .encEnd => 0xC#4
  | .decStart _ => 0xD#4
  | .decBits _ _ => 0xE#4
  | .setCtrl _ => 0xF#4
  | .clrStatus _ => 0xF#4
  | .abort _ => 0xF#4

theorem unlessReserved_eq_ok {c : Bool} {i j : Instr} (h : unlessReserved c i = .ok j) : i = j := by
  cases c <;> simp_all [unlessReserved]

/-- A range of bits of `DATA` is that range of the word. -/
theorem extract_dataField (w : Word) (q m : Nat) (h : q + m ≤ 16) :
    (dataField w).extractLsb' q m = w.extractLsb' q m := by
  apply BitVec.eq_of_getLsbD_eq
  intro j hj
  simp [dataField, hj, show q + j < 16 by omega]

/-! ### What a word that decodes is (R70, R72) -/

theorem decodeWrCode_eq_ok {w : Word} {i : Instr} (h : decodeWrCode w = .ok i) :
    i = .wrCode (symField w) (lenField w) ∧ lenField w ≠ 0#8 := by
  unfold decodeWrCode at h
  split at h
  · split at h <;> simp_all
  · simp at h

theorem decodeBits_eq_ok {w : Word} {i : Instr} (h : decodeBits w = .ok i) :
    i = .decBits (kField w) (dataField w) ∧ dataField w >>> ((kField w).toNat + 1) = 0#16 := by
  unfold decodeBits at h
  split at h
  · split at h <;> simp_all
  · simp at h

theorem decodeY_eq_ok {w : Word} {i : Instr} (h : decodeY w = .ok i) :
    i.wellFormed = true ∧
      (kField w = 0#4 ∧ i = .setCtrl (dataField w) ∨ kField w = 1#4 ∧ i = .clrStatus (dataField w) ∨
        kField w = 2#4 ∧ i = .abort (dataField w)) := by
  unfold decodeY at h
  repeat' split at h
  all_goals cases h
  all_goals simp_all [Instr.wellFormed, extract_dataField]

/-- `OP` selects a row with a condition on its operands or with no reserved bit, or one of the other rows. -/
theorem opField_values (w : Word) :
    opField w = 0x7#4 ∨ opField w = 0xD#4 ∨ opField w = 0xE#4 ∨ opField w = 0xF#4 ∨
    opField w ∈ [0x0#4, 0x1#4, 0x2#4, 0x3#4, 0x4#4, 0x5#4, 0x6#4, 0x8#4, 0x9#4, 0xA#4, 0xB#4, 0xC#4] := by
  generalize opField w = o
  revert o
  decide

/-- A word decodes to a well-formed command of the row its `OP` selects (R70, R72). -/
theorem decode_opcode_wellFormed {w : Word} {i : Instr} (h : decode w = .ok i) :
    opField w = i.opcode ∧ i.wellFormed = true := by
  rcases opField_values w with ho | ho | ho | ho | ho
  · obtain ⟨rfl, hlen⟩ := decodeWrCode_eq_ok (by simpa [decode, ho] using h)
    exact ⟨ho, by simpa [Instr.wellFormed] using hlen⟩
  · obtain rfl : Instr.decStart (nField w) = i := by simpa [decode, ho] using h
    exact ⟨ho, rfl⟩
  · obtain ⟨rfl, hdata⟩ := decodeBits_eq_ok (by simpa [decode, ho] using h)
    exact ⟨ho, by simpa [Instr.wellFormed] using hdata⟩
  · obtain ⟨hwf, ⟨-, rfl⟩ | ⟨-, rfl⟩ | ⟨-, rfl⟩⟩ := decodeY_eq_ok (by simpa [decode, ho] using h) <;>
      exact ⟨ho, hwf⟩
  · simp only [List.mem_cons, List.not_mem_nil, or_false] at ho
    rcases ho with ho | ho | ho | ho | ho | ho | ho | ho | ho | ho | ho | ho <;>
    · simp only [decode, ho, reduceIte, BitVec.reduceEq] at h
      cases unlessReserved_eq_ok h
      exact ⟨ho, rfl⟩

/-- `K` of a word that decodes to DEC_BITS. -/
theorem kField_of_decode_decBits {w : Word} {k : BitVec 4} {data : BitVec 16} (h : decode w = .ok (.decBits k data)) :
    kField w = k := by
  have ho : opField w = 0xE#4 := (decode_opcode_wellFormed h).1
  obtain ⟨hi, -⟩ := decodeBits_eq_ok (by simpa [decode, ho] using h)
  simpa using (Instr.decBits.inj hi).1.symm

/-- `SUB` and `ARG` of a word that decodes to ABORT. -/
theorem fields_of_decode_abort {w : Word} {arg : BitVec 16} (h : decode w = .ok (.abort arg)) :
    kField w = 2#4 ∧ dataField w = arg := by
  have ho : opField w = 0xF#4 := (decode_opcode_wellFormed h).1
  obtain ⟨-, ⟨-, hi⟩ | ⟨-, hi⟩ | ⟨hk, hi⟩⟩ := decodeY_eq_ok (by simpa [decode, ho] using h) <;> cases hi
  exact ⟨hk, rfl⟩

/-- Decoding the word of a well-formed instruction gives it back: one lemma of the laws per constructor. -/
theorem decode_encode {i : Instr} (h : i.wellFormed = true) : decode (encode i) = .ok i := by
  cases i with
  | nop => exact Laws.RoundTrip.nop h
  | wrLeaf a q => exact Laws.RoundTrip.wrLeaf a q h
  | wrInternal a l r => exact Laws.RoundTrip.wrInternal a l r h
  | clrNode a => exact Laws.RoundTrip.clrNode a h
  | clrTree => exact Laws.RoundTrip.clrTree h
  | setRoot a => exact Laws.RoundTrip.setRoot a h
  | codeStage k data => exact Laws.RoundTrip.codeStage k data h
  | wrCode q len => exact Laws.RoundTrip.wrCode q len h
  | clrCode q => exact Laws.RoundTrip.clrCode q h
  | clrCodes => exact Laws.RoundTrip.clrCodes h
  | encStart => exact Laws.RoundTrip.encStart h
  | encSym q => exact Laws.RoundTrip.encSym q h
  | encEnd => exact Laws.RoundTrip.encEnd h
  | decStart n => exact Laws.RoundTrip.decStart n h
  | decBits k data => exact Laws.RoundTrip.decBits k data h
  | setCtrl arg => exact Laws.RoundTrip.setCtrl arg h
  | clrStatus arg => exact Laws.RoundTrip.clrStatus arg h
  | abort arg => exact Laws.RoundTrip.abort arg h

end Sys2Proof

namespace Sys2Proof.Machine

/-! ### Room (R54, R57) -/

/-- The tokens a command can push to `DOUT` (R57). -/
def doutTokens : Instr → Nat
  | .decStart _ => 1
  | .decBits k _ => k.toNat + 2
  | .abort arg => if arg.getLsbD 0 then 1 else 0
  | _ => 0

/-- The tokens a command can push to `EOUT` (R57). -/
def eoutTokens : Instr → Nat
  | .encSym _ => 1
  | .encEnd => 1
  | .abort arg => if arg.getLsbD 1 then 1 else 0
  | _ => 0

/-- Acceptance leaves room for every token the command can push (R57). -/
theorem room_of_accepts {s : State} {w : Word} {i : Instr} (hd : decode w = .ok i) (ha : accepts s w = true) :
    doutTokens i ≤ freeDout s ∧ eoutTokens i ≤ freeEout s := by
  have ho := (decode_opcode_wellFormed hd).1
  cases i with
  | decStart n => simpa [accepts, ho, Instr.opcode, doutTokens, eoutTokens] using ha
  | encSym sym => simpa [accepts, ho, Instr.opcode, doutTokens, eoutTokens] using ha
  | encEnd => simpa [accepts, ho, Instr.opcode, doutTokens, eoutTokens] using ha
  | decBits k data => simpa [accepts, ho, Instr.opcode, kField_of_decode_decBits hd, doutTokens, eoutTokens] using ha
  | abort arg =>
    obtain ⟨hk, harg⟩ := fields_of_decode_abort hd
    simp only [accepts, ho, Instr.opcode, hk, harg] at ha
    cases h0 : arg.getLsbD 0 <;> cases h1 : arg.getLsbD 1 <;> simp_all [doutTokens, eoutTokens]
  | _ => simp [doutTokens, eoutTokens]

/-! ### What a command can do (R119): a rejection, or its effect -/

/-- What a command does when it is not rejected (the rule of its row in R70). -/
def effect (i : Instr) (s : State) : State :=
  match i with
  | .nop => s
  | .wrLeaf a q => writeNode s a (.leaf q)
  | .wrInternal a l r => writeNode s a (.internal l r)
  | .clrNode a => writeNode s a .empty
  | .clrTree => clearNodes s
  | .setRoot a => { s with root := a }
  | .codeStage k data => { s with stage := stageChunk s.stage k data }
  | .wrCode q len => writeCode s q (.code len (stagedBits s.stage len))
  | .clrCode q => writeCode s q .invalid
  | .clrCodes => clearCodes s
  | .encStart => { s with estate := .active, ebits := 0#28 }
  | .encSym q => if s.estate = .active then mapSymbol q s else s
  | .encEnd => if s.estate = .active then { endEncode .ok s with estate := .idle } else { s with estate := .idle }
  | .decStart n => openDecode n s
  | .decBits k data => walkBits (deliveredBits k data) s
  | .setCtrl arg => { s with ieDone := arg.getLsbD 0, ieErr := arg.getLsbD 1 }
  | .clrStatus arg =>
    onBit (arg.getLsbD 8) clearEncDone (onBit (arg.getLsbD 7) clearDecDone (onBit (arg.getLsbD 6) clearEncErr
      (onBit (arg.getLsbD 5) clearDecErr (onBit (arg.getLsbD 4) clearCmdErr s))))
  | .abort arg => onBit (arg.getLsbD 1) abortEncode (onBit (arg.getLsbD 0) abortDecode s)

/-- The session state in which a command is not rejected (R78, R87, R99 to R101, R104, R105). -/
def allowed (i : Instr) (s : State) : Prop :=
  match i with
  | .wrLeaf _ _ | .wrInternal _ _ _ | .clrNode _ | .clrTree | .setRoot _ | .decStart _ => s.dstate = .idle
  | .wrCode _ _ | .clrCode _ | .clrCodes | .encStart => s.estate = .idle
  | .encSym _ | .encEnd => s.estate ≠ .idle
  | .decBits k _ => s.dstate ≠ .idle ∧ k.toNat + 1 ≤ s.remain.toNat
  | .nop | .codeStage _ _ | .setCtrl _ | .clrStatus _ | .abort _ => True

/-- The state a command leaves: the one its effect gives, or the rejection's. -/
def ExecResult (i : Instr) (s t : State) : Prop :=
  (allowed i s ∧ t = effect i s) ∨
    ∃ cause, (cause = .sequence ∨ cause = .overrun) ∧ t = commandError cause (encode i) s

theorem whenDecoderIdle_cases (w : Word) (s : State) (rest : State → State) :
    s.dstate = .idle ∧ whenDecoderIdle w s rest = rest s ∨
      whenDecoderIdle w s rest = commandError .sequence w s := by
  by_cases h : s.dstate = .idle
  · exact .inl ⟨h, whenDecoderIdle_idle w s rest h⟩
  · exact .inr (whenDecoderIdle_open w s rest h)

theorem whenEncoderIdle_cases (w : Word) (s : State) (rest : State → State) :
    s.estate = .idle ∧ whenEncoderIdle w s rest = rest s ∨
      whenEncoderIdle w s rest = commandError .sequence w s := by
  by_cases h : s.estate = .idle
  · exact .inl ⟨h, whenEncoderIdle_idle w s rest h⟩
  · exact .inr (whenEncoderIdle_open w s rest h)

/-- The bits of a DEC_BITS in an open session: too many are an OVERRUN, others are walked over (R105). -/
theorem deliverBits_cases (k : BitVec 4) (data : BitVec 16) (s : State) :
    (k.toNat + 1 ≤ s.remain.toNat ∧ deliverBits k data s = walkBits (deliveredBits k data) s) ∨
    deliverBits k data s = commandError .overrun (encode (.decBits k data)) s := by
  unfold deliverBits
  split
  case isTrue h => exact .inr rfl
  case isFalse h => exact .inl ⟨by omega, rfl⟩

theorem execDecBits_result {k : BitVec 4} {data : BitVec 16} {s t : State} (h : execDecBits k data s = .next t) :
    ExecResult (.decBits k data) s t := by
  cases hs : s.dstate with
  | idle => exact .inr ⟨_, .inl rfl, by simpa [execDecBits, hs] using h.symm⟩
  | active | faulted =>
    have ht : t = deliverBits k data s := by simpa [execDecBits, hs] using h.symm
    rw [ht]
    rcases deliverBits_cases k data s with ⟨hr, he⟩ | he
    · exact .inl ⟨⟨by simp [hs], hr⟩, he⟩
    · exact .inr ⟨_, .inr rfl, he⟩

theorem execEncSym_result {q : Symbol} {s t : State} (h : execEncSym q s = .next t) :
    ExecResult (.encSym q) s t := by
  cases hs : s.estate with
  | idle => exact .inr ⟨_, .inl rfl, by simpa [execEncSym, hs] using h.symm⟩
  | active | faulted => exact .inl ⟨by simp [allowed, hs], by simpa [execEncSym, effect, hs] using h.symm⟩

theorem execEncEnd_result {s t : State} (h : execEncEnd s = .next t) : ExecResult .encEnd s t := by
  cases hs : s.estate with
  | idle => exact .inr ⟨_, .inl rfl, by simpa [execEncEnd, hs] using h.symm⟩
  | active | faulted => exact .inl ⟨by simp [allowed, hs], by simpa [execEncEnd, effect, hs] using h.symm⟩

/-- All that a command can do. -/
theorem exec_result {i : Instr} {s t : State} (h : exec i s = .next t) : ExecResult i s t := by
  cases i with
  | nop | codeStage | setCtrl | clrStatus | abort =>
    cases h
    exact .inl ⟨trivial, rfl⟩
  | wrLeaf | wrInternal | clrNode | clrTree | setRoot | decStart =>
    cases h
    exact (whenDecoderIdle_cases _ s _).imp_right fun e => ⟨_, .inl rfl, e⟩
  | wrCode | clrCode | clrCodes | encStart =>
    cases h
    exact (whenEncoderIdle_cases _ s _).imp_right fun e => ⟨_, .inl rfl, e⟩
  | encSym q => exact execEncSym_result h
  | encEnd => exact execEncEnd_result h
  | decBits k data => exact execDecBits_result h

/-- What an action leaves, it leaves under a bit of ARG. -/
theorem onBit_keeps {β : Type} (f : State → β) (b : Bool) {act : State → State} (h : ∀ u, f (act u) = f u)
    (s : State) : f (onBit b act s) = f s := by
  cases b with
  | false => rfl
  | true => exact h s

/-- All that CLR_STATUS does, field by field (R113). -/
theorem effect_clrStatus (arg : BitVec 16) (s : State) :
    effect (.clrStatus arg) s =
      { s with
        cmdErr := !arg.getLsbD 4 && s.cmdErr
        ceCause := if arg.getLsbD 4 then 0#4 else s.ceCause
        ceWord := if arg.getLsbD 4 then 0#32 else s.ceWord
        decErr := !arg.getLsbD 5 && s.decErr
        deInfo := if arg.getLsbD 5 then 0#24 else s.deInfo
        deBit := if arg.getLsbD 5 then 0#28 else s.deBit
        encErr := !arg.getLsbD 6 && s.encErr
        eeInfo := if arg.getLsbD 6 then 0#12 else s.eeInfo
        decDone := !arg.getLsbD 7 && s.decDone
        encDone := !arg.getLsbD 8 && s.encDone } := by
  have hcmd (b : Bool) (u : State) : onBit b clearCmdErr u =
      { u with cmdErr := !b && u.cmdErr, ceCause := if b then 0#4 else u.ceCause
               ceWord := if b then 0#32 else u.ceWord } := by cases b <;> rfl
  have hdec (b : Bool) (u : State) : onBit b clearDecErr u =
      { u with decErr := !b && u.decErr, deInfo := if b then 0#24 else u.deInfo
               deBit := if b then 0#28 else u.deBit } := by cases b <;> rfl
  have henc (b : Bool) (u : State) : onBit b clearEncErr u =
      { u with encErr := !b && u.encErr, eeInfo := if b then 0#12 else u.eeInfo } := by cases b <;> rfl
  have hdecDone (b : Bool) (u : State) : onBit b clearDecDone u = { u with decDone := !b && u.decDone } := by
    cases b <;> rfl
  have hencDone (b : Bool) (u : State) : onBit b clearEncDone u = { u with encDone := !b && u.encDone } := by
    cases b <;> rfl
  simp only [effect, hcmd, hdec, henc, hdecDone, hencDone]

/-- The lookup of a symbol: no code, a code that would pass `CNT_MAX`, or a codeword out (R100). -/
theorem mapSymbol_cases (sym : Symbol) (s : State) :
    mapSymbol sym s = encodeFault .missingSymbol sym s ∨ mapSymbol sym s = encodeFault .bitcountOverflow sym s ∨
    ∃ len bits, mapSymbol sym s = { pushEout (.cw len bits) s with ebits := s.ebits + len.setWidth 28 } := by
  cases h : codeAt s sym with
  | invalid => simp [mapSymbol, h]
  | code len bits =>
    simp only [mapSymbol, h]
    split
    · exact .inr (.inl rfl)
    · exact .inr (.inr ⟨len, bits, rfl⟩)

end Sys2Proof.Machine

end

section
/-! PROOFS. What a walk over bits is made of, the tables (O15), and the sticky bits with their captures (O16). -/

namespace Sys2Proof.Machine

/-! ### What a walk over bits is made of (R105 to R107) -/

/-- `WalkSteps s t`: `t` comes from `s` by the updates a walk over bits is made of. -/
inductive WalkSteps (s : State) : State → Prop where
  | refl : WalkSteps s s
  | count {u : State} : WalkSteps s u → WalkSteps s (countBit u)
  | emit {u : State} (q : Symbol) : WalkSteps s u → WalkSteps s (emitSymbol q u)
  | move {u : State} (c : NodeAddr) : WalkSteps s u → WalkSteps s { u with cur := c, mid := true }
  | fault {u : State} (st : Status) (node : NodeAddr) (target : Option NodeAddr) (b : Bool) (i : Count) :
      WalkSteps s u → WalkSteps s (decodeFault st node target b i u)
  | done {u : State} (st : Status) : WalkSteps s u → WalkSteps s (endDecode st u)
  | close {u : State} : WalkSteps s u → WalkSteps s { u with dstate := .idle }

theorem WalkSteps.walkCursor {s u : State} (h : WalkSteps s u) (b : Bool) (i : Count) :
    WalkSteps s (walkCursor b i u) := by
  rcases walkCursor_cases b i u with (⟨_, hw⟩ | ⟨_, _, _, _, hw⟩) | ⟨q, _, hw⟩ | ⟨_, _, _, _, _, _, hw⟩ <;>
    rw [hw]
  · exact .fault _ _ _ _ _ h
  · exact .fault _ _ _ _ _ h
  · exact .emit q h
  · exact .move _ h

theorem WalkSteps.endOfBits {s u : State} (h : WalkSteps s u) : WalkSteps s (endOfBits u) := by
  rw [endOfBits_eq]
  split
  · exact .close h
  · exact .close h
  · split
    · exact .close (.fault _ _ _ _ _ h)
    · exact .close (.done _ h)

theorem WalkSteps.walkBit {s u : State} (h : WalkSteps s u) (b : Bool) : WalkSteps s (walkBit u b) := by
  have hend (v : State) (hv : WalkSteps s v) :
      WalkSteps s (if v.remain = 0#28 then Machine.endOfBits v else v) := by
    split
    · exact hv.endOfBits
    · exact hv
  refine hend _ ?_
  split
  · exact .count h
  · exact .walkCursor (.count h) b _
  · exact .count h

theorem walkBits_steps (bs : List Bool) {s u : State} (h : WalkSteps s u) : WalkSteps s (walkBits bs u) := by
  induction bs generalizing u with
  | nil => exact h
  | cons b bs ih => exact ih (h.walkBit b)

/-! ### The tables (R25, R49, R51, R52) -/

/-- The fields that only the table commands write, and those that no command writes. -/
structure TableView where
  nodes : Memory Node
  root : NodeAddr
  codes : Memory CodeEntry
  stage : Stage
  doutDepth : Nat
  eoutDepth : Nat
  port : List Word
  turns : List Turn

/-- The tables of a state, its depths, its offered words and its turns. -/
def State.tables (s : State) : TableView where
  nodes := s.nodes
  root := s.root
  codes := s.codes
  stage := s.stage
  doutDepth := s.doutDepth
  eoutDepth := s.eoutDepth
  port := s.port
  turns := s.turns

@[simp] theorem commandError_tables (cause : Status) (w : Word) (s : State) :
    (commandError cause w s).tables = s.tables := by
  rw [commandError_eq]
  rfl

@[simp] theorem decodeFault_tables (st : Status) (node : NodeAddr) (target : Option NodeAddr) (b : Bool) (i : Count)
    (s : State) : (decodeFault st node target b i s).tables = s.tables := by
  rw [decodeFault_eq]
  rfl

@[simp] theorem encodeFault_tables (st : Status) (q : Symbol) (s : State) :
    (encodeFault st q s).tables = s.tables := by
  rw [encodeFault_eq]
  rfl

theorem WalkSteps.tables {s t : State} (h : WalkSteps s t) : t.tables = s.tables := by
  induction h with
  | refl => rfl
  | count _ ih | emit _ _ ih | move _ _ ih | done _ _ ih | close _ ih => exact ih
  | fault st node target b i _ ih => rw [decodeFault_tables, ih]

theorem mapSymbol_tables (q : Symbol) (s : State) : (mapSymbol q s).tables = s.tables := by
  rcases mapSymbol_cases q s with h | h | ⟨_, _, h⟩ <;> rw [h]
  · exact encodeFault_tables _ _ s
  · exact encodeFault_tables _ _ s
  · rfl

theorem openDecode_tables (n : Count) (s : State) : (openDecode n s).tables = s.tables := by
  unfold openDecode
  dsimp only
  split <;> rfl

theorem abortDecode_tables (s : State) : (abortDecode s).tables = s.tables := by
  unfold abortDecode
  cases s.dstate <;> rfl

theorem abortEncode_tables (s : State) : (abortEncode s).tables = s.tables := by
  unfold abortEncode
  cases s.estate <;> rfl

/-- A command that is neither a tree command, nor a code command, nor CODE_STAGE leaves the tables. -/
theorem effect_tables {i : Instr} (htree : isTreeCommand i = false) (hcode : isCodeCommand i = false)
    (hstage : ∀ k data, i ≠ .codeStage k data) (s : State) : (effect i s).tables = s.tables := by
  cases i with
  | wrLeaf | wrInternal | clrNode | clrTree | setRoot => cases htree
  | wrCode | clrCode | clrCodes => cases hcode
  | codeStage k data => exact absurd rfl (hstage k data)
  | nop | setCtrl | encStart => rfl
  | encSym q =>
    simp only [effect]
    split
    · exact mapSymbol_tables q s
    · rfl
  | encEnd =>
    simp only [effect]
    split <;> rfl
  | decStart n => exact openDecode_tables n s
  | decBits k data => exact (walkBits_steps _ .refl).tables
  | clrStatus arg =>
    rw [effect_clrStatus]
    rfl
  | abort arg =>
    exact (onBit_keeps State.tables _ abortEncode_tables _).trans (onBit_keeps State.tables _ abortDecode_tables s)

/-- Settles O15: a rejection writes no table, and each effect is that of one kind of command. -/
theorem onlyTheirCommandsWriteTheTables : Obligations.OnlyTheirCommandsWriteTheTables := by
  intro i s t h
  obtain ⟨-, rfl⟩ | ⟨_, -, rfl⟩ := exec_result h
  · have hkept := effect_tables (i := i) (s := s)
    cases i with
    | wrLeaf | wrInternal | clrNode | clrTree | setRoot | wrCode | clrCode | clrCodes | codeStage => simp [effect]
    | _ =>
      have ht := hkept rfl rfl (by simp)
      simp only [State.tables, TableView.mk.injEq] at ht
      simp [ht]
  · simp [commandError_eq]

/-! ### Sticky bits and captures (R45, R123) -/

/-- What an update that clears nothing keeps: every sticky bit that is 1, with its captures. -/
structure StickyKept (s t : State) : Prop where
  cmdErr : s.cmdErr = true → t.cmdErr = true ∧ t.ceCause = s.ceCause ∧ t.ceWord = s.ceWord
  decErr : s.decErr = true → t.decErr = true ∧ t.deInfo = s.deInfo ∧ t.deBit = s.deBit
  encErr : s.encErr = true → t.encErr = true ∧ t.eeInfo = s.eeInfo
  decDone : s.decDone = true → t.decDone = true
  encDone : s.encDone = true → t.encDone = true

/-- The sticky bits and the captures of a state. -/
def State.stickyView (s : State) :
    Bool × Bool × Bool × Bool × Bool × BitVec 4 × Word × BitVec 24 × Count × BitVec 12 :=
  (s.cmdErr, s.decErr, s.encErr, s.decDone, s.encDone, s.ceCause, s.ceWord, s.deInfo, s.deBit, s.eeInfo)

theorem StickyKept.trans {s t u : State} (h : StickyKept s t) (h' : StickyKept t u) : StickyKept s u := by
  constructor <;> intro hs
  · obtain ⟨h1, h2, h3⟩ := h.cmdErr hs
    obtain ⟨h4, h5, h6⟩ := h'.cmdErr h1
    exact ⟨h4, h5.trans h2, h6.trans h3⟩
  · obtain ⟨h1, h2, h3⟩ := h.decErr hs
    obtain ⟨h4, h5, h6⟩ := h'.decErr h1
    exact ⟨h4, h5.trans h2, h6.trans h3⟩
  · obtain ⟨h1, h2⟩ := h.encErr hs
    obtain ⟨h3, h4⟩ := h'.encErr h1
    exact ⟨h3, h4.trans h2⟩
  · exact h'.decDone (h.decDone hs)
  · exact h'.encDone (h.encDone hs)

theorem StickyKept.commandError (cause : Status) (w : Word) (s : State) : StickyKept s (commandError cause w s) := by
  rw [commandError_eq]
  constructor <;> intro hs <;> simp [hs]

theorem StickyKept.decodeFault (st : Status) (node : NodeAddr) (target : Option NodeAddr) (b : Bool) (i : Count)
    (s : State) : StickyKept s (decodeFault st node target b i s) := by
  rw [decodeFault_eq]
  constructor <;> intro hs <;> simp [hs]

theorem StickyKept.encodeFault (st : Status) (q : Symbol) (s : State) : StickyKept s (encodeFault st q s) := by
  rw [encodeFault_eq]
  constructor <;> intro hs <;> simp [hs]

/-- An update that writes no sticky bit and no capture. -/
theorem StickyKept.of_eq {s t : State} (h : t.stickyView = s.stickyView) : StickyKept s t := by
  simp only [State.stickyView, Prod.mk.injEq] at h
  constructor <;> intro hs <;> simp [h, hs]

theorem StickyKept.refl (s : State) : StickyKept s s := .of_eq rfl

theorem StickyKept.endDecode (st : Status) (s : State) : StickyKept s (endDecode st s) := by
  constructor <;> intro hs <;> simp [hs]

theorem StickyKept.endEncode (st : Status) (s : State) : StickyKept s (endEncode st s) := by
  constructor <;> intro hs <;> simp [hs]

theorem WalkSteps.stickyKept {s t : State} (h : WalkSteps s t) : StickyKept s t := by
  induction h with
  | refl => exact .refl s
  | count _ ih | emit _ _ ih | move _ _ ih | close _ ih => exact ih.trans (.of_eq rfl)
  | fault st node target b i _ ih => exact ih.trans (.decodeFault st node target b i _)
  | done st _ ih => exact ih.trans (.endDecode st _)

theorem StickyKept.mapSymbol (q : Symbol) (s : State) : StickyKept s (mapSymbol q s) := by
  rcases mapSymbol_cases q s with h | h | ⟨_, _, h⟩ <;> rw [h]
  · exact .encodeFault _ _ s
  · exact .encodeFault _ _ s
  · exact .of_eq rfl

theorem StickyKept.openDecode (n : Count) (s : State) : StickyKept s (openDecode n s) := by
  unfold Machine.openDecode
  dsimp only
  split
  · constructor <;> intro hs <;> simp [hs]
  · exact .of_eq rfl

theorem StickyKept.abortDecode (s : State) : StickyKept s (abortDecode s) := by
  unfold Machine.abortDecode
  cases s.dstate with
  | idle | faulted => exact .of_eq rfl
  | active => exact (StickyKept.endDecode .aborted s).trans (.of_eq rfl)

theorem StickyKept.abortEncode (s : State) : StickyKept s (abortEncode s) := by
  unfold Machine.abortEncode
  cases s.estate with
  | idle | faulted => exact .of_eq rfl
  | active => exact (StickyKept.endEncode .aborted s).trans (.of_eq rfl)

theorem StickyKept.onBit (b : Bool) {act : State → State} (h : ∀ u, StickyKept u (act u)) (s : State) :
    StickyKept s (onBit b act s) := by
  cases b with
  | false => exact .refl s
  | true => exact h s

/-- Every command but CLR_STATUS keeps the sticky bits that are 1. -/
theorem StickyKept.effect {i : Instr} (hi : ∀ arg, i ≠ .clrStatus arg) (s : State) : StickyKept s (effect i s) := by
  cases i with
  | clrStatus arg => exact absurd rfl (hi arg)
  | nop | wrLeaf | wrInternal | clrNode | clrTree | setRoot | codeStage | wrCode | clrCode | clrCodes | encStart
  | setCtrl => exact .of_eq rfl
  | encSym q =>
    simp only [Machine.effect]
    split
    · exact .mapSymbol q s
    · exact .refl s
  | encEnd =>
    simp only [Machine.effect]
    split
    · exact (StickyKept.endEncode .ok s).trans (.of_eq rfl)
    · exact .of_eq rfl
  | decStart n => exact .openDecode n s
  | decBits k data => exact (walkBits_steps _ .refl).stickyKept
  | abort arg => exact (StickyKept.onBit _ .abortDecode s).trans (.onBit _ .abortEncode _)

/-- Settles O16: a rejection and every effect but CLR_STATUS keep the bits that are 1; CLR_STATUS field by field. -/
theorem stickyBitsAndCapturesAreKeptUntilCleared : Obligations.StickyBitsAndCapturesAreKeptUntilCleared := by
  intro i s t h
  suffices hkept : (∃ arg, i = .clrStatus arg ∧ t = effect i s) ∨ StickyKept s t by
    obtain ⟨arg, rfl, rfl⟩ | hkept := hkept
    · rw [effect_clrStatus]
      refine ⟨fun hs hb => ?_, fun hs hb => ?_, fun hs hb => ?_, fun hs hb => ?_, fun hs hb => ?_⟩ <;>
        simp only [hs, hb arg rfl, Bool.not_false, Bool.and_self, Bool.false_eq_true, if_false, and_self]
    · exact ⟨fun hs _ => hkept.cmdErr hs, fun hs _ => hkept.decErr hs, fun hs _ => hkept.encErr hs,
        fun hs _ => hkept.decDone hs, fun hs _ => hkept.encDone hs⟩
  obtain ⟨-, rfl⟩ | ⟨cause, -, rfl⟩ := exec_result h
  · by_cases hi : ∃ arg, i = .clrStatus arg
    · obtain ⟨arg, rfl⟩ := hi
      exact .inl ⟨arg, rfl, rfl⟩
    · exact .inr (.effect (fun arg he => hi ⟨arg, he⟩) s)
  · exact .inr (.commandError _ _ s)

end Sys2Proof.Machine

end

section
/-! PROOFS. The invariant of R26: its rule for each operation, for a walk over bits, for a command and for a step (O13,
O14). -/

namespace Sys2Proof.Machine

/-! ### The invariant at reset, and updates outside the decoder's session (R26) -/

/-- Settles O14: every field of Inv is about a value R24 fixes, or about a depth, which Config keeps in range. -/
theorem resetStateMeetsTheInvariant : Obligations.ResetStateMeetsTheInvariant where
  nodes_wf := rfl
  codes_wf := rfl
  codes_form _ _ _ h := by cases h
  open_remain h := absurd rfl h
  open_count h := absurd rfl h
  at_root _ h := by cases h
  mid_internal h := by cases h
  symbols_le_bits := Nat.le_refl _
  dout_fits := Nat.zero_le _
  eout_fits := Nat.zero_le _
  idle_remain _ := rfl
  dout_depth := by
    simp only [State.reset, Config.doutDepth]
    omega
  eout_depth := by
    simp only [State.reset, Config.eoutDepth]
    omega
  ce_clear _ := ⟨rfl, rfl⟩
  ce_cause h := by cases h
  de_clear _ := ⟨rfl, rfl⟩
  de_status h := by cases h
  ee_clear _ := rfl
  ee_status h := by cases h
  dout_status _ _ h := by cases h
  eout_status _ _ h := by cases h

theorem Inv.resetBlock {s : State} (h : Inv s) : Inv (resetBlock s) :=
  { resetStateMeetsTheInvariant with
    dout_fits := Nat.zero_le _, eout_fits := Nat.zero_le _, dout_depth := h.dout_depth, eout_depth := h.eout_depth }

theorem Inv.popDout {s : State} (h : Inv s) : Inv (popDout s) :=
  { h with
    dout_fits := by
      have := h.dout_fits
      simp only [popDout_dout, popDout_doutDepth, List.length_tail]
      omega
    dout_status := fun st n hm => h.dout_status st n (List.mem_of_mem_tail hm) }

theorem Inv.popEout {s : State} (h : Inv s) : Inv (popEout s) :=
  { h with
    eout_fits := by
      have := h.eout_fits
      simp only [popEout_eout, popEout_eoutDepth, List.length_tail]
      omega
    eout_status := fun st n hm => h.eout_status st n (List.mem_of_mem_tail hm) }

theorem Inv.commandError {s : State} (h : Inv s) {cause : Status} (w : Word)
    (hc : cause = .illegal ∨ cause = .sequence ∨ cause = .overrun) : Inv (commandError cause w s) := by
  rw [commandError_eq]
  refine { h with ce_clear := fun hn => (by cases hn), ce_cause := fun _ => ?_ }
  cases hs : s.cmdErr with
  | true => simpa [hs] using h.ce_cause hs
  | false => rcases hc with rfl | rfl | rfl <;> simp [Status.code]

theorem Inv.writeNode {s : State} (h : Inv s) (hidle : s.dstate = .idle) (a : NodeAddr) (n : Node) :
    Inv (writeNode s a n) :=
  { h with nodes_wf := nodes_wf_writeNode s a n h.nodes_wf, mid_internal := fun _ hopen => absurd hidle hopen }

theorem Inv.clearNodes {s : State} (h : Inv s) (hidle : s.dstate = .idle) : Inv (clearNodes s) :=
  { h with nodes_wf := rfl, mid_internal := fun _ hopen => absurd hidle hopen }

theorem Inv.setRoot {s : State} (h : Inv s) (hidle : s.dstate = .idle) (a : NodeAddr) : Inv { s with root := a } :=
  { h with at_root := fun _ hactive => by cases hidle.symm.trans hactive }

theorem Inv.writeCode {s : State} (h : Inv s) (q : Symbol) (e : CodeEntry)
    (he : ∀ len bits, e = .code len bits → len ≠ 0#8 ∧ ∀ i, len.toNat ≤ i → bits.getLsbD i = false) :
    Inv (writeCode s q e) :=
  { h with
    codes_wf := codes_wf_writeCode s q e h.codes_wf
    codes_form := fun r len bits hr => by
      rw [codeAt_writeCode] at hr
      split at hr
      · exact he len bits hr
      · exact h.codes_form r len bits hr }

theorem Inv.clearCodes {s : State} (h : Inv s) : Inv (clearCodes s) :=
  { h with codes_wf := rfl, codes_form := fun _ _ _ hr => by cases hr }

theorem Inv.clearCmdErr {s : State} (h : Inv s) : Inv (clearCmdErr s) :=
  { h with ce_clear := fun _ => ⟨rfl, rfl⟩, ce_cause := fun hs => by cases hs }

theorem Inv.clearDecErr {s : State} (h : Inv s) : Inv (clearDecErr s) :=
  { h with de_clear := fun _ => ⟨rfl, rfl⟩, de_status := fun hs => by cases hs }

theorem Inv.clearEncErr {s : State} (h : Inv s) : Inv (clearEncErr s) :=
  { h with ee_clear := fun _ => rfl, ee_status := fun hs => by cases hs }

theorem Inv.clearDecDone {s : State} (h : Inv s) : Inv (clearDecDone s) := { h with }

theorem Inv.clearEncDone {s : State} (h : Inv s) : Inv (clearEncDone s) := { h with }

theorem Inv.onBit {s : State} (h : Inv s) (b : Bool) {act : State → State} (hact : b = true → Inv (act s)) :
    Inv (onBit b act s) := by
  cases b with
  | false => exact h
  | true => exact hact rfl

/-! ### The encoder's session -/

theorem Inv.pushEout {s : State} (h : Inv s) (hroom : 1 ≤ freeEout s) (tok : EToken)
    (htok : ∀ st n, tok = .done st n → st = .ok ∨ st = .missingSymbol ∨ st = .bitcountOverflow ∨ st = .aborted) :
    Inv (pushEout tok s) :=
  { h with
    eout_fits := by
      simp only [freeEout] at hroom
      simp only [pushEout_eout, pushEout_eoutDepth, List.length_append, List.length_singleton]
      omega
    eout_status := fun st n hm => by
      rcases List.mem_append.1 hm with hm | hm
      · exact h.eout_status st n hm
      · exact htok st n (List.mem_singleton.1 hm).symm }

theorem Inv.endEncode {s : State} (h : Inv s) (hroom : 1 ≤ freeEout s) {st : Status}
    (hst : st = .ok ∨ st = .missingSymbol ∨ st = .bitcountOverflow ∨ st = .aborted) : Inv (endEncode st s) :=
  { h.pushEout hroom (.done st s.ebits) (fun _ _ he => by cases he; exact hst) with }

theorem Inv.encodeFault {s : State} (h : Inv s) (hroom : 1 ≤ freeEout s) {st : Status}
    (hst : st = .missingSymbol ∨ st = .bitcountOverflow) (q : Symbol) : Inv (encodeFault st q s) := by
  rw [encodeFault_eq]
  refine { h.endEncode hroom (.inr (hst.imp_right .inl)) with
    ee_clear := fun hn => (by cases hn), ee_status := fun _ => ?_ }
  cases hs : s.encErr with
  | true => simpa [hs] using h.ee_status hs
  | false => rcases hst with rfl | rfl <;> simp [(encodeErrorInfo_parts _ q).1, Status.code]

theorem Inv.mapSymbol {s : State} (h : Inv s) (hroom : 1 ≤ freeEout s) (q : Symbol) : Inv (mapSymbol q s) := by
  rcases mapSymbol_cases q s with hm | hm | ⟨len, bits, hm⟩ <;> rw [hm]
  · exact h.encodeFault hroom (.inl rfl) q
  · exact h.encodeFault hroom (.inr rfl) q
  · exact { h.pushEout hroom (.cw len bits) (fun _ _ he => by cases he) with }

theorem Inv.abortEncode {s : State} (h : Inv s) (hroom : 1 ≤ freeEout s) : Inv (abortEncode s) := by
  unfold Machine.abortEncode
  cases s.estate with
  | idle | faulted => exact { h with }
  | active => exact { h.endEncode hroom (.inr (.inr (.inr rfl))) with }

/-! ### The decoder's session (R103 to R107)

A walk passes through states that do not meet Inv: between the count of a session's last bit and `EndOfBits`, the
session is open with nothing to come. Such a state still meets Inv once its session is closed, so each update is shown
to keep that, and Inv of the open session is put together again at the end of each bit. -/

/-- The state with the decoder's session given up, as ABORT leaves it (R114). -/
def closed (s : State) : State := { s with dstate := .idle, remain := 0#28 }

theorem abortDecode_eq (s : State) :
    abortDecode s = closed (if s.dstate = .active then endDecode .aborted s else s) := by
  unfold Machine.abortDecode
  cases s.dstate <;> rfl

theorem Inv.closed {s : State} (h : Inv s) : Inv (closed s) :=
  { h with
    open_remain := fun hopen => absurd rfl hopen, open_count := fun hopen => absurd rfl hopen
    at_root := fun _ hactive => by cases hactive
    mid_internal := fun _ hopen => absurd rfl hopen, idle_remain := fun _ => rfl }

/-- A state whose session is over meets Inv when the state with its session given up does. -/
theorem Inv.of_closed_idle {s : State} (h : Inv (Machine.closed s)) (hidle : s.dstate = .idle)
    (hrem : s.remain = 0#28) : Inv s :=
  { h with
    open_remain := fun hopen => absurd hidle hopen, open_count := fun hopen => absurd hidle hopen
    at_root := fun _ hactive => by cases hidle.symm.trans hactive
    mid_internal := fun _ hopen => absurd hidle hopen, idle_remain := fun _ => hrem }

/-- A state with an open session meets Inv when the state with its session given up does, and the session's own
conditions (I2 to I5) hold. -/
theorem Inv.of_closed_open {s : State} (h : Inv (Machine.closed s)) (hopen : s.dstate ≠ .idle)
    (hrem : 1 ≤ s.remain.toNat) (hcount : s.consumed.toNat + s.remain.toNat ≤ Config.cntMax)
    (hroot : s.mid = false → s.dstate = .active → s.cur = s.root)
    (hmid : s.mid = true → ∃ l r, nodeAt s s.cur = .internal l r) : Inv s :=
  { h with
    open_remain := fun _ => hrem, open_count := fun _ => hcount, at_root := hroot
    mid_internal := fun hm _ => hmid hm, idle_remain := fun hidle => absurd hidle hopen }

theorem closed_pushDout {s : State} (h : Inv (closed s)) (hroom : 1 ≤ freeDout s) (tok : DToken)
    (htok : ∀ st n, tok = .done st n → st = .ok ∨ st = .invalidCode ∨ st = .truncatedStream ∨ st = .aborted) :
    Inv (closed (pushDout tok s)) :=
  { h with
    dout_fits := by
      simp only [freeDout] at hroom
      simp only [closed, pushDout_dout, pushDout_doutDepth, List.length_append, List.length_singleton]
      omega
    dout_status := fun st n hm => by
      rcases List.mem_append.1 hm with hm | hm
      · exact h.dout_status st n hm
      · exact htok st n (List.mem_singleton.1 hm).symm }

theorem closed_endDecode {s : State} (h : Inv (closed s)) (hroom : 1 ≤ freeDout s) {st : Status}
    (hst : st = .ok ∨ st = .invalidCode ∨ st = .truncatedStream ∨ st = .aborted) : Inv (closed (endDecode st s)) :=
  { closed_pushDout h hroom (.done st s.symcount) (fun _ _ he => by cases he; exact hst) with }

theorem closed_decodeFault {s : State} (h : Inv (closed s)) (hroom : 1 ≤ freeDout s) {st : Status}
    (hst : st = .invalidCode ∨ st = .truncatedStream) (node : NodeAddr) (target : Option NodeAddr) (b : Bool)
    (i : Count) : Inv (closed (decodeFault st node target b i s)) := by
  rw [decodeFault_eq]
  refine { closed_endDecode h hroom (.inr (hst.imp_right .inl)) with
    de_clear := fun hn => (by cases hn), de_status := fun _ => ?_ }
  cases hs : s.decErr with
  | true => simpa [closed, hs] using h.de_status hs
  | false => rcases hst with rfl | rfl <;> simp [closed, (decodeErrorInfo_parts _ node target b).1, Status.code]

theorem closed_emitSymbol {s : State} (h : Inv (closed s)) (hroom : 1 ≤ freeDout s)
    (hcount : s.symcount.toNat + 1 ≤ s.consumed.toNat) (q : Symbol) : Inv (closed (emitSymbol q s)) :=
  { closed_pushDout h hroom (.sym q) (fun _ _ he => by cases he) with
    symbols_le_bits := by
      have := s.consumed.isLt
      simp only [closed, emitSymbol_symcount, emitSymbol_consumed]
      rw [toNat_add_one _ (by omega)]
      exact hcount
    at_root := fun _ hactive => by cases hactive
    mid_internal := fun _ hopen => absurd rfl hopen }

theorem closed_countBit {s : State} (h : Inv (closed s)) (hmax : s.consumed.toNat + 1 ≤ Config.cntMax) :
    Inv (closed (countBit s)) :=
  { h with
    open_count := fun hopen => absurd rfl hopen
    symbols_le_bits := by
      have hle : s.symcount.toNat ≤ s.consumed.toNat := h.symbols_le_bits
      simp only [Config.cntMax] at hmax
      simp only [closed, countBit_symcount, countBit_consumed]
      rw [toNat_add_one _ (by omega)]
      omega }

/-- Counting a session's next bit: in numbers (R106). -/
theorem countBit_toNat {s : State} (h : Inv s) (hopen : s.dstate ≠ .idle) :
    (countBit s).consumed.toNat = s.consumed.toNat + 1 ∧ (countBit s).remain.toNat = s.remain.toNat - 1 := by
  have hrem := h.open_remain hopen
  have hcount := h.open_count hopen
  simp only [Config.cntMax] at hcount
  exact ⟨toNat_add_one _ (by omega), toNat_sub_one _ hrem⟩

/-- The END token a session has still to push: one, until a data error has pushed it (R107, R121). -/
def pendingEnd (s : State) : Nat := if s.dstate = .active then 1 else 0

/-- An open session between the count of a bit and the check for the last one: Inv but for `remain`, and room for a
token from each of `n` bits to come and for the END. -/
structure Walking (n : Nat) (s : State) : Prop where
  closed : Inv (closed s)
  session_open : s.dstate ≠ .idle
  at_root : s.mid = false → s.dstate = .active → s.cur = s.root
  mid_internal : s.mid = true → ∃ l r, nodeAt s s.cur = .internal l r
  room : n + pendingEnd s ≤ freeDout s

theorem Walking.countBit {n : Nat} {s : State} (h : Inv s) (hopen : s.dstate ≠ .idle)
    (hroom : n + pendingEnd s ≤ freeDout s) : Walking n (countBit s) where
  closed := by
    have hrem := h.open_remain hopen
    have hcount := h.open_count hopen
    exact closed_countBit h.closed (by omega)
  session_open := hopen
  at_root := h.at_root
  mid_internal hm := h.mid_internal hm hopen
  room := hroom

theorem freeDout_push (tok : DToken) (s : State) : freeDout (pushDout tok s) = freeDout s - 1 := by
  simp only [freeDout, pushDout_dout, pushDout_doutDepth, List.length_append, List.length_singleton]
  omega

/-- A data error of the walk, which pushes the session's END. -/
theorem Walking.decodeFault {n : Nat} {s : State} (h : Walking (n + 1) s) {st : Status}
    (hst : st = .invalidCode ∨ st = .truncatedStream) (node : NodeAddr) (target : Option NodeAddr) (b : Bool)
    (i : Count) : Walking n (decodeFault st node target b i s) := by
  have hroom := h.room
  have hinv := closed_decodeFault h.closed (by omega) hst node target b i
  have hfree := freeDout_push (.done st s.symcount) s
  rw [decodeFault_eq] at hinv ⊢
  exact {
    closed := hinv
    session_open := fun hidle => by cases hidle
    at_root := fun _ hactive => by cases hactive
    mid_internal := h.mid_internal
    room := by
      simp only [pendingEnd, reduceCtorEq, if_false]
      change n + 0 ≤ freeDout (pushDout (.done st s.symcount) s)
      omega }

theorem Walking.emitSymbol {n : Nat} {s : State} (h : Walking (n + 1) s)
    (hcount : s.symcount.toNat + 1 ≤ s.consumed.toNat) (q : Symbol) : Walking n (emitSymbol q s) where
  closed := closed_emitSymbol h.closed (by have := h.room; omega) hcount q
  session_open := h.session_open
  at_root _ _ := rfl
  mid_internal hm := by cases hm
  room := by
    have hroom := h.room
    change n + pendingEnd s ≤ freeDout (pushDout (.sym q) s)
    rw [freeDout_push]
    omega

/-- What the cursor's entry makes of a bit (R106) keeps the session walking. -/
theorem Walking.walkCursor {n : Nat} {s : State} (h : Walking (n + 1) s)
    (hcount : s.symcount.toNat + 1 ≤ s.consumed.toNat) (b : Bool) (i : Count) : Walking n (walkCursor b i s) := by
  rcases walkCursor_cases b i s with (⟨_, hw⟩ | ⟨l, r, _, _, hw⟩) | ⟨q, _, hw⟩ | ⟨l, r, l', r', _, ht, hw⟩ <;>
    rw [hw]
  · exact h.decodeFault (.inl rfl) _ _ b i
  · exact h.decodeFault (.inl rfl) _ _ b i
  · exact h.emitSymbol hcount q
  · exact {
      closed := { h.closed with
        at_root := fun _ hactive => by cases hactive
        mid_internal := fun _ hopen => absurd rfl hopen }
      session_open := h.session_open
      at_root := fun hm => by cases hm
      mid_internal := fun _ => ⟨l', r', ht⟩
      room := by
        have hroom := h.room
        change n + pendingEnd s ≤ freeDout s
        omega }

/-- With bits still to come, the session meets Inv. -/
theorem Walking.inv {n : Nat} {s : State} (h : Walking n s) (hrem : 1 ≤ s.remain.toNat)
    (hcount : s.consumed.toNat + s.remain.toNat ≤ Config.cntMax) : Inv s :=
  h.closed.of_closed_open h.session_open hrem hcount h.at_root h.mid_internal

/-- After the last bit, the end of the session meets Inv (R107). -/
theorem Walking.endOfBits {n : Nat} {s : State} (h : Walking n s) (hrem : s.remain = 0#28) : Inv (endOfBits s) := by
  have hroom := h.room
  obtain ⟨hkept, -, -, -, hidle⟩ := endOfBits_counts s
  refine Inv.of_closed_idle ?_ hidle (hkept.trans hrem)
  rw [endOfBits_eq]
  cases hs : s.dstate with
  | idle | faulted => exact h.closed
  | active =>
    have hfree : 1 ≤ freeDout s := by
      simp only [pendingEnd, hs, if_true] at hroom
      omega
    cases s.mid with
    | true => exact closed_decodeFault h.closed hfree (.inr rfl) _ _ _ _
    | false => exact closed_endDecode h.closed hfree (.inl rfl)

/-- The check for the last bit: Inv again, and an open session has the room it had. -/
theorem Walking.finishBit {n : Nat} {s : State} (h : Walking n s)
    (hcount : s.consumed.toNat + s.remain.toNat ≤ Config.cntMax) {t : State}
    (ht : t = if s.remain = 0#28 then Machine.endOfBits s else s) :
    Inv t ∧ (t.dstate ≠ .idle → n + pendingEnd t ≤ freeDout t) := by
  by_cases hrem : s.remain = 0#28
  · rw [ht, if_pos hrem]
    obtain ⟨-, -, -, -, hidle⟩ := endOfBits_counts s
    exact ⟨h.endOfBits hrem, fun hopen => absurd hidle hopen⟩
  · rw [ht, if_neg hrem]
    have hpos : 1 ≤ s.remain.toNat := Nat.one_le_iff_ne_zero.2 fun hz => hrem (BitVec.eq_of_toNat_eq hz)
    exact ⟨h.inv hpos hcount, fun _ => h.room⟩

/-- One bit of a session with room for its token and the END. -/
theorem Inv.walkBit {n : Nat} {s : State} (h : Inv s) (hopen : s.dstate ≠ .idle)
    (hroom : n + 1 + pendingEnd s ≤ freeDout s) (b : Bool) :
    Inv (walkBit s b) ∧ ((walkBit s b).dstate ≠ .idle → n + pendingEnd (walkBit s b) ≤ freeDout (walkBit s b)) := by
  obtain ⟨hconsumed, hremain⟩ := countBit_toNat h hopen
  have hrem := h.open_remain hopen
  have hcount := h.open_count hopen
  have hsym := h.symbols_le_bits
  cases hs : s.dstate with
  | idle => exact absurd hs hopen
  | faulted =>
    have hwalk : Walking n (countBit s) := .countBit h hopen (by omega)
    exact hwalk.finishBit (by omega) (by simp only [Machine.walkBit, countBit_dstate, hs])
  | active =>
    have hwalk : Walking n (walkCursor b s.consumed (Machine.countBit s)) :=
      (Walking.countBit h hopen hroom).walkCursor (by rw [hconsumed]; exact Nat.succ_le_succ hsym) b _
    obtain ⟨hr, hc, -, -⟩ := walkCursor_counts b s.consumed (Machine.countBit s)
    exact hwalk.finishBit (by rw [hr, hc]; omega) (walkBit_active s b hs)

/-- The bits of one command, with room for a token from each and the END (R57, R105). -/
theorem Inv.walkBits {s : State} (h : Inv s) (hopen : s.dstate ≠ .idle) (bs : List Bool)
    (hbits : bs.length ≤ s.remain.toNat) (hroom : bs.length + pendingEnd s ≤ freeDout s) : Inv (walkBits bs s) := by
  induction bs generalizing s with
  | nil => exact h
  | cons b bs ih =>
    have hrem := h.open_remain hopen
    obtain ⟨hr, -, -, -, hidle⟩ := walkBit_counts s b hopen
    obtain ⟨hinv, hroom'⟩ := h.walkBit hopen hroom b
    have hr' : (Machine.walkBit s b).remain.toNat = s.remain.toNat - 1 := by rw [hr, toNat_sub_one _ hrem]
    rw [List.length_cons] at hbits
    rw [walkBits_cons]
    by_cases hend : (Machine.walkBit s b).dstate = .idle
    · have hlast : s.remain.toNat - 1 = 0 := by
        rw [← hr', hr, hidle.1 hend]
        rfl
      obtain rfl : bs = [] := List.length_eq_zero_iff.1 (by omega)
      exact hinv
    · exact ih hinv hend (by omega) (hroom' hend)

theorem Inv.openDecode {s : State} (h : Inv s) (hidle : s.dstate = .idle) (hroom : 1 ≤ freeDout s) (n : Count) :
    Inv (openDecode n s) := by
  have hstart : Inv (Machine.closed { s with remain := n, consumed := 0#28, cur := s.root, mid := false
                                             symcount := 0#28 }) :=
    { h.closed with
      open_count := fun hopen => absurd rfl hopen, symbols_le_bits := Nat.le_refl _
      at_root := fun _ hactive => by cases hactive
      mid_internal := fun hm => by cases hm }
  unfold Machine.openDecode
  dsimp only
  split
  case isTrue hn =>
    exact (closed_endDecode (st := .ok) hstart hroom (.inl rfl)).of_closed_idle hidle hn
  case isFalse hn =>
    have hlt := n.isLt
    have hpos : 1 ≤ n.toNat := Nat.one_le_iff_ne_zero.2 fun hz => hn (BitVec.eq_of_toNat_eq hz)
    refine Inv.of_closed_open hstart (fun hidle => by cases hidle) hpos ?_ (fun _ _ => rfl) (fun hm => by cases hm)
    simp [Config.cntMax]
    omega

theorem Inv.abortDecode {s : State} (h : Inv s) (hroom : 1 ≤ freeDout s) : Inv (abortDecode s) := by
  rw [abortDecode_eq]
  split
  · exact closed_endDecode h.closed hroom (.inr (.inr (.inr rfl)))
  · exact h.closed

/-! ### Commands -/

theorem freeEout_abortDecode (s : State) : freeEout (abortDecode s) = freeEout s := by
  rw [abortDecode_eq]
  split <;> rfl

/-- The effect of a well-formed command with room for its tokens. -/
theorem Inv.effect {i : Instr} {s : State} (h : Inv s) (hwf : i.wellFormed = true) (hallowed : allowed i s)
    (hdout : doutTokens i ≤ freeDout s) (heout : eoutTokens i ≤ freeEout s) : Inv (effect i s) := by
  cases i with
  | nop => exact h
  | wrLeaf a q => exact h.writeNode hallowed a _
  | wrInternal a l r => exact h.writeNode hallowed a _
  | clrNode a => exact h.writeNode hallowed a _
  | clrTree => exact h.clearNodes hallowed
  | setRoot a => exact h.setRoot hallowed a
  | codeStage k data => exact { h with }
  | wrCode q len =>
    refine h.writeCode q _ fun len' bits he => ?_
    cases he
    refine ⟨by simpa [Instr.wellFormed] using hwf, fun j hj => ?_⟩
    rw [getLsbD_stagedBits, decide_eq_false (by omega), Bool.false_and]
  | clrCode q => exact h.writeCode q _ fun _ _ he => by cases he
  | clrCodes => exact h.clearCodes
  | encStart => exact { h with }
  | encSym q =>
    simp only [Machine.effect]
    split
    · exact h.mapSymbol heout q
    · exact h
  | encEnd =>
    simp only [Machine.effect]
    split
    · exact { h.endEncode heout (.inl rfl) with }
    · exact { h with }
  | decStart n => exact h.openDecode hallowed hdout n
  | decBits k data =>
    obtain ⟨hopen, hbits⟩ := hallowed
    refine h.walkBits hopen _ (by rwa [length_deliveredBits]) ?_
    have hend : pendingEnd s ≤ 1 := by unfold pendingEnd; split <;> omega
    rw [length_deliveredBits]
    simp only [doutTokens] at hdout
    omega
  | setCtrl arg => exact { h with }
  | clrStatus arg =>
    have hcmd := h.onBit (arg.getLsbD 4) fun _ => h.clearCmdErr
    have hdec := hcmd.onBit (arg.getLsbD 5) fun _ => hcmd.clearDecErr
    have henc := hdec.onBit (arg.getLsbD 6) fun _ => hdec.clearEncErr
    have hdecDone := henc.onBit (arg.getLsbD 7) fun _ => henc.clearDecDone
    exact hdecDone.onBit (arg.getLsbD 8) fun _ => hdecDone.clearEncDone
  | abort arg =>
    have hdec := h.onBit (arg.getLsbD 0) fun hb => h.abortDecode (by simpa only [doutTokens, hb, if_true] using hdout)
    refine hdec.onBit (arg.getLsbD 1) fun hb => hdec.abortEncode ?_
    rw [onBit_keeps freeEout _ freeEout_abortDecode]
    simpa only [eoutTokens, hb, if_true] using heout

/-- A command a word decodes to, in a state that accepts the word. -/
theorem Inv.exec {i : Instr} {s t : State} (h : Inv s) (hwf : i.wellFormed = true)
    (hdout : doutTokens i ≤ freeDout s) (heout : eoutTokens i ≤ freeEout s) (ht : exec i s = .next t) : Inv t := by
  obtain ⟨hallowed, rfl⟩ | ⟨cause, hc, rfl⟩ := exec_result ht
  · exact h.effect hwf hallowed hdout heout
  · exact h.commandError _ (.inr hc)

/-! ### The counts of the decoder's session (R26 I3) -/

/-- What I3 speaks of: the session state and its two counts. -/
def State.progress (s : State) : Session × Count × Count := (s.dstate, s.consumed, s.remain)

theorem commandError_progress (cause : Status) (w : Word) (s : State) :
    (commandError cause w s).progress = s.progress := by
  rw [commandError_eq]
  rfl

theorem mapSymbol_progress (q : Symbol) (s : State) : (mapSymbol q s).progress = s.progress := by
  rcases mapSymbol_cases q s with h | h | ⟨_, _, h⟩ <;> rw [h]
  · rw [encodeFault_eq]
    rfl
  · rw [encodeFault_eq]
    rfl
  · rfl

theorem abortEncode_progress (s : State) : (abortEncode s).progress = s.progress := by
  unfold abortEncode
  cases s.estate <;> rfl

/-- The commands that do not drive the decoder leave the session and its counts (R103, R108). -/
theorem effect_progress {i : Instr} (hi : drivesDecoder i = false) (s : State) :
    (effect i s).progress = s.progress := by
  cases i with
  | decStart | decBits => cases hi
  | nop | wrLeaf | wrInternal | clrNode | clrTree | setRoot | codeStage | wrCode | clrCode | clrCodes | encStart
  | setCtrl => rfl
  | encSym q =>
    simp only [effect]
    split
    · exact mapSymbol_progress q s
    · rfl
  | encEnd =>
    simp only [effect]
    split <;> rfl
  | clrStatus arg =>
    rw [effect_clrStatus]
    rfl
  | abort arg =>
    have hb : arg.getLsbD 0 = false := hi
    simp only [effect, hb]
    exact onBit_keeps State.progress _ abortEncode_progress _

/-- What a step may do to the counts of the decoder's session (I3): an open one keeps their sum, and only DEC_START
opens one, with its count as the sum. -/
def CountsKept (start : Count → Prop) (s t : State) : Prop :=
  (s.dstate ≠ .idle → t.dstate ≠ .idle →
    t.consumed.toNat + t.remain.toNat = s.consumed.toNat + s.remain.toNat) ∧
  (s.dstate = .idle → t.dstate ≠ .idle → ∃ n, start n ∧ t.consumed.toNat + t.remain.toNat = n.toNat)

theorem CountsKept.of_progress {start : Count → Prop} {s t : State} (h : t.progress = s.progress) :
    CountsKept start s t := by
  simp only [State.progress, Prod.mk.injEq] at h
  obtain ⟨hd, hc, hr⟩ := h
  exact ⟨fun _ _ => by rw [hc, hr], fun hidle hopen => absurd (hd.trans hidle) hopen⟩

theorem CountsKept.of_idle {start : Count → Prop} {s t : State} (h : t.dstate = .idle) : CountsKept start s t :=
  ⟨fun _ hopen => absurd h hopen, fun _ hopen => absurd h hopen⟩

theorem CountsKept.openDecode (n : Count) {s : State} (hidle : s.dstate = .idle) :
    CountsKept (· = n) s (openDecode n s) := by
  refine ⟨fun hopen => absurd hidle hopen, fun _ hopen => ⟨n, rfl, ?_⟩⟩
  unfold Machine.openDecode at hopen ⊢
  dsimp only at hopen ⊢
  split at hopen
  case isTrue hn => exact absurd hidle hopen
  case isFalse hn => simp [hn]

theorem CountsKept.walkBits {start : Count → Prop} {s : State} (h : Inv s) (hopen : s.dstate ≠ .idle) (bs : List Bool)
    (hbits : bs.length ≤ s.remain.toNat) : CountsKept start s (walkBits bs s) := by
  refine ⟨fun _ _ => ?_, fun hidle => absurd hidle hopen⟩
  obtain ⟨hr, hc, -⟩ := walkBits_counts bs s hopen hbits (h.open_remain hopen)
  have hcount := h.open_count hopen
  simp only [Config.cntMax] at hcount
  have hlen : (BitVec.ofNat 28 bs.length).toNat = bs.length := by
    rw [BitVec.toNat_ofNat]
    omega
  rw [hr, hc, BitVec.toNat_add, hlen]
  omega

/-- A command's effect on the counts (I3). -/
theorem CountsKept.effect {i : Instr} {s : State} (h : Inv s) (hallowed : allowed i s) :
    CountsKept (fun n => i = .decStart n) s (effect i s) := by
  by_cases hi : drivesDecoder i = false
  · exact .of_progress (effect_progress hi s)
  · cases i with
    | decStart n =>
      obtain ⟨hkept, hstart⟩ := CountsKept.openDecode n (s := s) hallowed
      refine ⟨hkept, fun hidle hopen => ?_⟩
      obtain ⟨m, rfl, hm⟩ := hstart hidle hopen
      exact ⟨m, rfl, hm⟩
    | decBits k data =>
      obtain ⟨hopen, hbits⟩ := hallowed
      exact .walkBits h hopen _ (by rwa [length_deliveredBits])
    | abort arg =>
      have hb : arg.getLsbD 0 = true := by simpa [drivesDecoder] using hi
      have hp := onBit_keeps State.progress (arg.getLsbD 1) abortEncode_progress (onBit (arg.getLsbD 0) abortDecode s)
      simp only [State.progress, Prod.mk.injEq] at hp
      rw [hb] at hp
      refine .of_idle ?_
      simp only [Machine.effect, hb]
      exact hp.1
    | _ => exact absurd rfl hi

theorem CountsKept.exec {i : Instr} {s t : State} (h : Inv s) (ht : exec i s = .next t) :
    CountsKept (fun n => i = .decStart n) s t := by
  obtain ⟨hallowed, rfl⟩ | ⟨cause, -, rfl⟩ := exec_result ht
  · exact .effect h hallowed
  · exact .of_progress (commandError_progress _ _ s)

/-! ### The executor's step, and every step -/

/-- The DEC_START a step can take: the one at the head of the port. -/
def offersDecStart (s : State) (n : Count) : Prop := ∃ w rest, s.port = w :: rest ∧ decode w = .ok (.decStart n)

theorem Inv.executorStep {s t : State} (h : Inv s) (ht : executorStep s = .next t) :
    Inv t ∧ CountsKept (offersDecStart s) s t := by
  rcases executorStep_cases s with he | ⟨w, rest, i, hport, hacc, hdec, he⟩ | ⟨w, rest, _, -, -, -, he⟩ <;>
    rw [he] at ht
  · cases ht
    exact ⟨h, .of_progress rfl⟩
  · have hrest : Inv { s with port := rest } := { h with }
    obtain ⟨hdout, heout⟩ := room_of_accepts hdec hacc
    refine ⟨hrest.exec (decode_opcode_wellFormed hdec).2 hdout heout ht, ?_⟩
    obtain ⟨hkept, hstart⟩ := CountsKept.exec hrest ht
    refine ⟨hkept, fun hidle hopen => ?_⟩
    obtain ⟨n, rfl, hn⟩ := hstart hidle hopen
    exact ⟨n, ⟨w, rest, hport, hdec⟩, hn⟩
  · cases ht
    have hrest : Inv { s with port := rest } := { h with }
    exact ⟨hrest.commandError w (.inl rfl), .of_progress (commandError_progress _ _ _)⟩

/-- A step is the executor's, or another agent's turn, which no command takes part in. -/
theorem Inv.step {s t : State} (h : Inv s) (ht : step s = .next t) : Inv t ∧ CountsKept (offersDecStart s) s t := by
  have hturns (ts : List Turn) : Inv { s with turns := ts } := { h with }
  rcases step_cases s with ⟨ts, -, he⟩ | ⟨w, ts, -, he⟩ | ⟨ts, -, he⟩ | ⟨ts, -, he⟩ | ⟨ts, -, he⟩ <;> rw [he] at ht
  · exact (hturns ts).executorStep ht
  · cases ht
    exact ⟨{ hturns ts with }, .of_progress rfl⟩
  · cases ht
    exact ⟨(hturns ts).popDout, .of_progress rfl⟩
  · cases ht
    exact ⟨(hturns ts).popEout, .of_progress rfl⟩
  · cases ht
    exact ⟨(hturns ts).resetBlock, .of_idle rfl⟩

/-- Settles O13: each kind of step keeps the invariant and the counts. -/
theorem stepKeepsTheInvariant : Obligations.StepKeepsTheInvariant := by
  intro s t h ht
  obtain ⟨hinv, hkept, hstart⟩ := h.step ht
  refine ⟨hinv, hkept, fun hidle hopen => ?_⟩
  obtain ⟨n, ⟨w, rest, hport, hdec⟩, hn⟩ := hstart hidle hopen
  exact ⟨w, rest, n, hport, hdec, hn⟩

end Sys2Proof.Machine

end

section
/-! PROOFS. The executor's step on an accepted word (O6), and on the word withFetchWord places (O7). -/

namespace Sys2Proof.Machine

theorem executorStep_of_accepted {s : State} {w : Word} {rest : List Word} {i : Instr} (hport : s.port = w :: rest)
    (hacc : accepts s w = true) (hdec : decode w = .ok i) :
    executorStep s = exec i { s with port := rest } := by
  rw [executorStep_taken s w rest hport hacc, executeWord_legal w i _ hdec]

/-- Settles O6: with no turn listed, or with its own turn first, the step is the executor's. -/
theorem stepRunsTheDecodedCommand : Obligations.StepRunsTheDecodedCommand := by
  intro s w rest i hport hacc hdec
  refine ⟨fun hts => ?_, fun ts hts => ?_⟩
  · rw [step_without_turns s hts, executorStep_of_accepted hport hacc hdec]
  · rw [step_of_turn s _ ts hts]
    exact executorStep_of_accepted (s := { s with turns := ts }) hport hacc hdec

/-- Settles O7: the placed word is the head of the port, and the next turn is the executor's. -/
theorem placedWordIsRunByTheNextStep : Obligations.PlacedWordIsRunByTheNextStep := by
  intro s i hwf hacc
  have hplaced : s.withFetchWord 32 (encode i).toNat = withOfferedWord s (encode i) := by
    rw [State.withFetchWord, tableWord_toNat]
  rw [hplaced, step_of_turn _ .executor s.turns rfl]
  exact executorStep_of_accepted (s := { s with port := encode i :: s.port }) rfl hacc (decode_encode hwf)

end Sys2Proof.Machine

end

section
/-! PROOFS. The register port: STATUS (O46), the registers that show one field each (O47), the captures (O48). -/

namespace Sys2Proof

/-! ### The numbers and the bits of fields put side by side (R10, R27) -/

/-- A bit of a field put down. -/
theorem getLsbD_put {n : Nat} (p : Nat) (v : BitVec n) (i : Nat) (h : p + n ≤ 32) :
    (put p v).getLsbD i = (decide (p ≤ i ∧ i < p + n) && v.getLsbD (i - p)) := by
  by_cases hi : p ≤ i ∧ i < p + n
  · simp [put, hi, show i < 32 by omega, show ¬ i < p by omega]
  · by_cases hp : i < p
    · simp [put, hi, hp]
    · simp [put, hi, BitVec.getLsbD_of_ge v (i - p) (by omega)]

/-- A field at the foot of a word is the word's number. -/
theorem toNat_put_zero {n : Nat} (v : BitVec n) (h : n ≤ 32) : (put 0 v).toNat = v.toNat := by
  have := v.isLt
  have hp : 2 ^ n ≤ 2 ^ 32 := Nat.pow_le_pow_right (by omega) h
  simp only [put, BitVec.shiftLeft_zero, BitVec.toNat_setWidth]
  exact Nat.mod_eq_of_lt (by omega)

/-- Two halves of a word. -/
theorem toNat_put_halves (a b : BitVec 16) : (put 0 a ||| put 16 b).toNat = a.toNat + 65536 * b.toNat := by
  have ha := a.isLt
  have hb := b.isLt
  have hhigh : (put 16 b).toNat = b.toNat <<< 16 := by
    simp only [put, BitVec.toNat_shiftLeft, BitVec.toNat_setWidth, Nat.shiftLeft_eq]
    omega
  rw [BitVec.toNat_or, toNat_put_zero a (by omega), hhigh, Nat.or_comm, ← Nat.shiftLeft_add_eq_or_of_lt ha,
    Nat.shiftLeft_eq]
  omega

end Sys2Proof

namespace Sys2Proof.Machine

theorem Session.code_eq (d : Session) :
    d.code = (match d with | .idle => 0#2 | .active => 1#2 | .faulted => 2#2) := by cases d <;> rfl

/-- The bits of STATUS that show one field each (R30). -/
theorem getLsbD_statusWord (busy : Bool) (s : State) :
    (statusWord busy s).getLsbD 4 = s.cmdErr ∧ (statusWord busy s).getLsbD 5 = s.decErr ∧
    (statusWord busy s).getLsbD 6 = s.encErr ∧ (statusWord busy s).getLsbD 7 = s.decDone ∧
    (statusWord busy s).getLsbD 8 = s.encDone ∧ (statusWord busy s).getLsbD 9 = irq s ∧
    (statusWord busy s).getLsbD 10 = busy := by
  refine ⟨?_, ?_, ?_, ?_, ?_, ?_, ?_⟩ <;>
    simp [statusWord, BitVec.getLsbD_or, getLsbD_put, -BitVec.getLsbD_eq_getElem]

/-- The fields of STATUS wider than a bit (R30). -/
theorem extract_statusWord (busy : Bool) (s : State) :
    (statusWord busy s).extractLsb' 0 2 = s.dstate.code ∧ (statusWord busy s).extractLsb' 2 2 = s.estate.code ∧
    (statusWord busy s).extractLsb' 11 21 = 0#21 := by
  refine ⟨?_, ?_, ?_⟩ <;> simp [statusWord, extract_or, extract_put_same, extract_put_disjoint]

/-- Settles O46: the fields of STATUS share no bit. -/
theorem statusRegisterFields : Obligations.StatusRegisterFields := by
  intro s
  have hstatus : readRegister s 0x1#4 = statusWord false s := rfl
  obtain ⟨hdstate, hestate, hrest⟩ := extract_statusWord false s
  obtain ⟨hcmd, hdec, henc, hdecDone, hencDone, hirq, hbusy⟩ := getLsbD_statusWord false s
  rw [hstatus]
  refine ⟨hdstate.trans (Session.code_eq _), hestate.trans (Session.code_eq _), hcmd, hdec, henc, hdecDone, hencDone,
    hirq, hbusy, hrest, fun k => ?_, rfl⟩
  have hword : readRegisterBusy k s 0x1#4 = Config.busyRead k ||| 0x400#32 := rfl
  rw [hword, BitVec.getLsbD_or]
  simp

/-- Settles O47: each register is its fields put down, which share no bit; Inv keeps the four 16-bit counts in range. -/
theorem registersShowTheirFields : Obligations.RegistersShowTheirFields := by
  refine ⟨by decide, fun s h => ?_⟩
  have hdout := h.dout_fits
  have heout := h.eout_fits
  have hdoutDepth := h.dout_depth.2
  have heoutDepth := h.eout_depth.2
  have hctrl : readRegister s 0x2#4 = put 0 (BitVec.ofBool s.ieDone) ||| put 1 (BitVec.ofBool s.ieErr) := rfl
  have hcursor : readRegister s 0x6#4 = put 0 s.cur ||| put 31 (BitVec.ofBool s.mid) := rfl
  refine ⟨rfl, ⟨?_, ?_, ?_⟩, toNat_put_zero s.root (by omega), toNat_put_zero s.remain (by omega),
    toNat_put_zero s.consumed (by omega), ⟨?_, ?_, ?_⟩, toNat_put_zero s.symcount (by omega),
    toNat_put_zero s.ebits (by omega), (toNat_put_halves _ _).trans ?_, (toNat_put_halves _ _).trans ?_⟩
  · simp [hctrl, BitVec.getLsbD_or, getLsbD_put, -BitVec.getLsbD_eq_getElem]
  · simp [hctrl, BitVec.getLsbD_or, getLsbD_put, -BitVec.getLsbD_eq_getElem]
  · simp [hctrl, extract_or, extract_put_disjoint]
  · simp [hcursor, extract_or, extract_put_same, extract_put_disjoint]
  · simp [hcursor, extract_or, extract_put_disjoint]
  · simp [hcursor, BitVec.getLsbD_or, getLsbD_put, -BitVec.getLsbD_eq_getElem]
  · simp only [BitVec.toNat_ofNat]
    omega
  · simp only [BitVec.toNat_ofNat]
    omega

/-- Settles O48: each register is its capture, whose values Inv bounds. -/
theorem captureRegistersShowTheFirstError : Obligations.CaptureRegistersShowTheFirstError := by
  intro s h
  have hcause : readRegister s 0x9#4 = put 0 s.ceCause := rfl
  have hde : readRegister s 0xB#4 = put 0 s.deInfo := rfl
  have hee : readRegister s 0xD#4 = put 0 s.eeInfo := rfl
  rw [hcause, hde, hee]
  refine ⟨⟨toNat_put_zero _ (by omega), ?_⟩, rfl, ⟨toNat_put_zero _ (by omega), ?_, fun hs => ?_⟩,
    toNat_put_zero s.deBit (by omega), ⟨toNat_put_zero _ (by omega), ?_, fun hs => ?_⟩⟩
  · cases hs : s.cmdErr with
    | false =>
      rw [(h.ce_clear hs).1]
      decide
    | true => rcases h.ce_cause hs with hc | hc | hc <;> rw [hc] <;> decide
  · exact extract_put_disjoint _ _ _ _ (by omega)
  · rw [extract_put_within _ _ _ _ (by omega) (by omega) (by omega)]
    rcases h.de_status hs with hd | hd <;> simp [hd]
  · exact extract_put_disjoint _ _ _ _ (by omega)
  · rw [extract_put_within _ _ _ _ (by omega) (by omega) (by omega)]
    rcases h.ee_status hs with hd | hd <;> simp [hd]

end Sys2Proof.Machine

end

section
/-! PROOFS. The output FIFOs: what every step keeps of them (O10), what a pop does (O9), the wire format of their tokens
(O49); and when a word is accepted (O8). -/

namespace Sys2Proof.Machine

/-! ### Both FIFOs only gain tokens at their tails (R54) -/

/-- Both FIFOs of `s` are the front of those of `t`. -/
structure FifosGrow (s t : State) : Prop where
  dout : s.dout <+: t.dout
  eout : s.eout <+: t.eout

theorem FifosGrow.trans {s t u : State} (h : FifosGrow s t) (h' : FifosGrow t u) : FifosGrow s u :=
  ⟨h.dout.trans h'.dout, h.eout.trans h'.eout⟩

/-- An update that pushes nothing. -/
theorem FifosGrow.of_eq {s t : State} (hd : t.dout = s.dout) (he : t.eout = s.eout) : FifosGrow s t :=
  ⟨hd ▸ List.prefix_rfl, he ▸ List.prefix_rfl⟩

/-- An update that pushes one token to `DOUT`. -/
theorem FifosGrow.of_dout {s t : State} {tok : DToken} (hd : t.dout = s.dout ++ [tok]) (he : t.eout = s.eout) :
    FifosGrow s t :=
  ⟨hd ▸ List.prefix_append _ _, he ▸ List.prefix_rfl⟩

/-- An update that pushes one token to `EOUT`. -/
theorem FifosGrow.of_eout {s t : State} {tok : EToken} (hd : t.dout = s.dout) (he : t.eout = s.eout ++ [tok]) :
    FifosGrow s t :=
  ⟨hd ▸ List.prefix_rfl, he ▸ List.prefix_append _ _⟩

theorem FifosGrow.refl (s : State) : FifosGrow s s := .of_eq rfl rfl

theorem FifosGrow.commandError (cause : Status) (w : Word) (s : State) : FifosGrow s (commandError cause w s) := by
  rw [commandError_eq]
  exact .of_eq rfl rfl

theorem FifosGrow.decodeFault (st : Status) (node : NodeAddr) (target : Option NodeAddr) (b : Bool) (i : Count)
    (s : State) : FifosGrow s (decodeFault st node target b i s) := by
  rw [decodeFault_eq]
  exact .of_dout rfl rfl

theorem FifosGrow.encodeFault (st : Status) (q : Symbol) (s : State) : FifosGrow s (encodeFault st q s) := by
  rw [encodeFault_eq]
  exact .of_eout rfl rfl

theorem WalkSteps.fifosGrow {s t : State} (h : WalkSteps s t) : FifosGrow s t := by
  induction h with
  | refl => exact .refl s
  | count _ ih | move _ _ ih | close _ ih => exact ih.trans (.of_eq rfl rfl)
  | emit _ _ ih | done _ _ ih => exact ih.trans (.of_dout rfl rfl)
  | fault st node target b i _ ih => exact ih.trans (.decodeFault st node target b i _)

theorem FifosGrow.mapSymbol (q : Symbol) (s : State) : FifosGrow s (mapSymbol q s) := by
  rcases mapSymbol_cases q s with h | h | ⟨_, _, h⟩ <;> rw [h]
  · exact .encodeFault _ _ s
  · exact .encodeFault _ _ s
  · exact .of_eout rfl rfl

theorem FifosGrow.openDecode (n : Count) (s : State) : FifosGrow s (openDecode n s) := by
  unfold Machine.openDecode
  dsimp only
  split
  · exact .of_dout rfl rfl
  · exact .of_eq rfl rfl

theorem FifosGrow.abortDecode (s : State) : FifosGrow s (abortDecode s) := by
  unfold Machine.abortDecode
  cases s.dstate with
  | idle | faulted => exact .of_eq rfl rfl
  | active => exact .of_dout rfl rfl

theorem FifosGrow.abortEncode (s : State) : FifosGrow s (abortEncode s) := by
  unfold Machine.abortEncode
  cases s.estate with
  | idle | faulted => exact .of_eq rfl rfl
  | active => exact .of_eout rfl rfl

theorem FifosGrow.onBit (b : Bool) {act : State → State} (h : ∀ u, FifosGrow u (act u)) (s : State) :
    FifosGrow s (onBit b act s) := by
  cases b with
  | false => exact .refl s
  | true => exact h s

/-- No command drops or moves a token. -/
theorem FifosGrow.effect (i : Instr) (s : State) : FifosGrow s (effect i s) := by
  cases i with
  | nop | wrLeaf | wrInternal | clrNode | clrTree | setRoot | codeStage | wrCode | clrCode | clrCodes | encStart
  | setCtrl => exact .of_eq rfl rfl
  | clrStatus arg =>
    rw [effect_clrStatus]
    exact .of_eq rfl rfl
  | encSym q =>
    simp only [Machine.effect]
    split
    · exact .mapSymbol q s
    · exact .refl s
  | encEnd =>
    simp only [Machine.effect]
    split
    · exact .of_eout rfl rfl
    · exact .of_eq rfl rfl
  | decStart n => exact .openDecode n s
  | decBits k data => exact (walkBits_steps _ .refl).fifosGrow
  | abort arg => exact (FifosGrow.onBit _ .abortDecode s).trans (.onBit _ .abortEncode _)

theorem FifosGrow.exec {i : Instr} {s t : State} (h : exec i s = .next t) : FifosGrow s t := by
  obtain ⟨-, rfl⟩ | ⟨_, -, rfl⟩ := exec_result h
  · exact .effect i s
  · exact .commandError _ _ s

theorem FifosGrow.executorStep {s t : State} (h : executorStep s = .next t) : FifosGrow s t := by
  rcases executorStep_cases s with he | ⟨_, rest, _, _, _, _, he⟩ | ⟨_, rest, _, _, _, _, he⟩ <;> rw [he] at h
  · cases h
    exact .refl s
  · have htaken : FifosGrow s { s with port := rest } := .of_eq rfl rfl
    exact htaken.trans (.exec h)
  · cases h
    have htaken : FifosGrow s { s with port := rest } := .of_eq rfl rfl
    exact htaken.trans (.commandError _ _ _)

/-- Settles O10: an executor's step grows both FIFOs, and each other turn does one thing to one of them or to both. -/
theorem fifosKeepTheOrderOfTokens : Obligations.FifosKeepTheOrderOfTokens := by
  intro s t h
  suffices hfifos : FifosGrow s t ∨
      (∃ ts, s.turns = .doutConsumer :: ts ∧ t.dout = s.dout.tail ∧ t.eout = s.eout) ∨
      (∃ ts, s.turns = .eoutConsumer :: ts ∧ t.dout = s.dout ∧ t.eout = s.eout.tail) ∨
      (∃ ts, s.turns = .reset :: ts ∧ t.dout = [] ∧ t.eout = []) by
    obtain ⟨⟨new, hd⟩, ⟨new', he⟩⟩ | ⟨ts, hts, hd, he⟩ | ⟨ts, hts, hd, he⟩ | ⟨ts, hts, hd, he⟩ := hfifos
    · exact ⟨.inl ⟨new, hd.symm⟩, .inl ⟨new', he.symm⟩⟩
    · exact ⟨.inr (.inl ⟨ts, hts, hd⟩), .inl ⟨[], by simpa using he⟩⟩
    · exact ⟨.inl ⟨[], by simpa using hd⟩, .inr (.inl ⟨ts, hts, he⟩)⟩
    · exact ⟨.inr (.inr ⟨ts, hts, hd⟩), .inr (.inr ⟨ts, hts, he⟩)⟩
  rcases step_cases s with ⟨ts, -, hs⟩ | ⟨w, ts, -, hs⟩ | ⟨ts, hts, hs⟩ | ⟨ts, hts, hs⟩ | ⟨ts, hts, hs⟩ <;>
    rw [hs] at h
  · have hturn : FifosGrow s { s with turns := ts } := .of_eq rfl rfl
    exact .inl (hturn.trans (.executorStep h))
  · cases h
    exact .inl (.of_eq rfl rfl)
  · cases h
    exact .inr (.inl ⟨ts, hts, rfl, rfl⟩)
  · cases h
    exact .inr (.inr (.inl ⟨ts, hts, rfl, rfl⟩))
  · cases h
    exact .inr (.inr (.inr ⟨ts, hts, rfl, rfl⟩))

/-! ### Pops (R55) -/

theorem step_doutConsumer {s : State} {ts : List Turn} (h : s.turns = .doutConsumer :: ts) :
    step s = .next { s with dout := s.dout.tail, turns := ts } := step_of_turn s _ ts h

theorem step_eoutConsumer {s : State} {ts : List Turn} (h : s.turns = .eoutConsumer :: ts) :
    step s = .next { s with eout := s.eout.tail, turns := ts } := step_of_turn s _ ts h

/-- Settles O9: a pop leaves the tail, which of an empty FIFO is the FIFO; the port shows the head. -/
theorem popsTakeTheHeadToken : Obligations.PopsTakeTheHeadToken := by
  refine ⟨fun s ts hts => ⟨fun tok rest hd => ?_, fun hd => ?_⟩, fun s ts hts => ⟨fun tok rest he => ?_, fun he => ?_⟩⟩
  · simp [step_doutConsumer hts, outputs, hd]
  · simp [step_doutConsumer hts, outputs, hd]
  · simp [step_eoutConsumer hts, outputs, he]
  · simp [step_eoutConsumer hts, outputs, he]

/-! ### Tokens on the wire (R56) -/

theorem EToken.bits_done (st : Status) (n : Count) :
    (EToken.done st n).bits = (DToken.done st n).data.setWidth 255 := rfl

/-- The two fields of an END token's data. -/
theorem extract_doneData (st : Status) (n : Count) :
    (DToken.done st n).data.extractLsb' 28 4 = st.code ∧ (DToken.done st n).data.extractLsb' 0 28 = n := by
  simp [DToken.data, extract_or, extract_put_same, extract_put_disjoint]

/-- A word widened is 0 above itself. -/
theorem extract_setWidth_above (w : Word) (m q n : Nat) (h : 32 ≤ q) : (w.setWidth m).extractLsb' q n = 0#n := by
  apply BitVec.eq_of_getLsbD_eq
  intro i hi
  simp [BitVec.getLsbD_of_ge w (q + i) (by omega)]

/-- Settles O49: a token's data is its fields side by side, and an END on `EOUT` is that of `DOUT` widened. -/
theorem tokensOnTheWire : Obligations.TokensOnTheWire := by
  refine ⟨fun q => ⟨rfl, extract_put_same 0 q (by omega), extract_put_disjoint 0 8 24 q (by omega)⟩,
    fun st n => ⟨rfl, extract_doneData st n⟩, fun len bits => ⟨rfl, rfl, rfl⟩, fun st n => ⟨rfl, rfl, ?_⟩,
    by decide, by decide⟩
  obtain ⟨hcode, hcount⟩ := extract_doneData st n
  rw [EToken.bits_done]
  exact ⟨(BitVec.extractLsb'_setWidth_of_le (by omega)).trans hcode,
    (BitVec.extractLsb'_setWidth_of_le (by omega)).trans hcount, extract_setWidth_above _ 255 32 223 (by omega)⟩

/-! ### Acceptance (R57) -/

/-- All that acceptance asks of a word: room in each FIFO that its kind uses. -/
theorem accepts_iff (s : State) (w : Word) :
    accepts s w = true ↔
      (opField w = 0xD#4 → 1 ≤ freeDout s) ∧
      (opField w = 0xE#4 → (kField w).toNat + 2 ≤ freeDout s) ∧
      (opField w = 0xB#4 ∨ opField w = 0xC#4 → 1 ≤ freeEout s) ∧
      (opField w = 0xF#4 ∧ kField w = 2#4 →
        ((dataField w).getLsbD 0 = false ∨ 1 ≤ freeDout s) ∧ ((dataField w).getLsbD 1 = false ∨ 1 ≤ freeEout s)) := by
  unfold accepts
  split_ifs with hD hE hB hC hF hk
  · simp [hD]
  · simp [hE]
  · simp [hB]
  · simp [hC]
  · simp [hF, hk]
  · simp [hF, hk]
  · simp [hD, hE, hB, hC, hF]

/-- With the depths of R9, a word whose FIFOs are empty has room (R57). -/
theorem accepts_of_empty {s : State} {w : Word} (hdepth : 17 ≤ s.doutDepth) (hedepth : 1 ≤ s.eoutDepth)
    (hd : usesDout w → s.dout = []) (he : usesEout w → s.eout = []) : accepts s w = true := by
  have hdout (hu : usesDout w) : 17 ≤ freeDout s := by simpa [freeDout, hd hu] using hdepth
  have heout (hu : usesEout w) : 1 ≤ freeEout s := by simpa [freeEout, he hu] using hedepth
  refine (accepts_iff s w).2 ⟨fun ho => ?_, fun ho => ?_, fun ho => ?_, fun ⟨ho, hk⟩ => ⟨?_, ?_⟩⟩
  · have := hdout (.inl ho)
    omega
  · have := hdout (.inr (.inl ho))
    have := (kField w).isLt
    omega
  · exact heout (ho.imp_right .inl)
  · cases hb : (dataField w).getLsbD 0 with
    | false => exact .inl rfl
    | true =>
      have := hdout (.inr (.inr ⟨ho, hk, hb⟩))
      exact .inr (by omega)
  · cases hb : (dataField w).getLsbD 1 with
    | false => exact .inl rfl
    | true => exact .inr (heout (.inr (.inr ⟨ho, hk, hb⟩)))

/-- Settles O8: each kind of word meets one clause of acceptance; neither a held turn nor an offer changes a FIFO. -/
theorem commandsAreAcceptedWhenTheirFifoHasRoom : Obligations.CommandsAreAcceptedWhenTheirFifoHasRoom := by
  refine ⟨fun s w => ⟨fun ho => ?_, fun ho => ?_, ?_, fun ho hk => ?_, fun ho hF => ?_⟩,
    fun s w rest hport hheld => ⟨fun hts => ?_, fun ts hts => ?_, fun u ts hts => ?_⟩,
    fun s w => accepts_of_empty⟩
  · simp [accepts_iff, ho]
  · simp [accepts_iff, ho]
  · rintro (ho | ho) <;> simp [accepts_iff, ho]
  · simp [accepts_iff, ho, hk]
  · simp only [List.mem_cons, List.not_mem_nil, or_false, not_or] at ho
    simp [accepts_iff, ho, hF]
  · rw [step_without_turns s hts, executorStep_held s w rest hport hheld]
  · rw [step_of_turn s _ ts hts]
    exact executorStep_held { s with turns := ts } w rest hport hheld
  · refine ⟨_, step_of_turn s _ ts hts, ⟨rest ++ [u], ?_⟩, ?_⟩
    · simp [hport]
    · exact (accepts_congr (s := s) w rfl rfl rfl rfl).trans hheld

end Sys2Proof.Machine

end

section
/-! PROOFS. The encoding: which words decode, and to what (O1, O2); the rows of the opcode map (O3); the reserved
encodings (O4); the example words (O5). Words are compared field by field, by `and_eq_iff_fields`. -/

namespace Sys2Proof

open Machine

/-! ### Words that agree on some fields -/

/-- A field's bits as (lowest bit, width), as R68 lays out the formats. -/
abbrev BitRange := Nat × Nat

/-- Whether one of the fields holds bit `j`. -/
def covers (fs : List BitRange) (j : Nat) : Bool := fs.any fun f => decide (f.1 ≤ j ∧ j < f.1 + f.2)

/-- Words agree under a mask exactly when they agree on the fields the mask is made of. -/
theorem and_eq_iff_fields {mask : Word} {fs : List BitRange} (hmask : ∀ j < 32, mask.getLsbD j = covers fs j)
    (w v : Word) : w &&& mask = v &&& mask ↔ ∀ f ∈ fs, w.extractLsb' f.1 f.2 = v.extractLsb' f.1 f.2 := by
  constructor
  · intro h f hf
    apply BitVec.eq_of_getLsbD_eq
    intro j hj
    by_cases hlt : f.1 + j < 32
    · have hset : mask.getLsbD (f.1 + j) = true := by
        rw [hmask _ hlt]
        exact List.any_eq_true.2 ⟨f, hf, by simp [hj]⟩
      simpa [hj, hset] using congrArg (·.getLsbD (f.1 + j)) h
    · simp [BitVec.getLsbD_of_ge _ _ (Nat.le_of_not_lt hlt)]
  · intro h
    apply BitVec.eq_of_getLsbD_eq
    intro j hj
    rw [BitVec.getLsbD_and, BitVec.getLsbD_and, hmask j hj]
    cases hc : covers fs j with
    | false => simp
    | true =>
      obtain ⟨f, hf, hin⟩ := List.any_eq_true.1 hc
      obtain ⟨hlow, hhigh⟩ := of_decide_eq_true hin
      have hbit := congrArg (·.getLsbD (j - f.1)) (h f hf)
      simpa [show j - f.1 < f.2 by omega, show f.1 + (j - f.1) = j by omega] using hbit

/-- Words that agree on fields that hold every bit are the same. -/
theorem eq_of_fields (fs : List BitRange) (hall : ∀ j < 32, covers fs j = true) {w v : Word}
    (h : ∀ f ∈ fs, w.extractLsb' f.1 f.2 = v.extractLsb' f.1 f.2) : w = v := by
  have hmask : ∀ j < 32, (BitVec.allOnes 32).getLsbD j = covers fs j := fun j hj => by
    rw [BitVec.getLsbD_allOnes, hall j hj, decide_eq_true hj]
  simpa only [BitVec.and_allOnes] using (and_eq_iff_fields hmask w v).2 h

/-! ### What each format's decoder takes (R68, R72) -/

@[simp] theorem unlessReserved_eq_ok_iff {c : Bool} {i j : Instr} :
    unlessReserved c i = .ok j ↔ c = true ∧ i = j := by
  cases c <;> simp [unlessReserved]

@[simp] theorem decodeZ_eq_ok_iff {w : Word} {i j : Instr} : decodeZ w i = .ok j ↔
    w.extractLsb' 0 28 = 0#28 ∧ i = j := by
  simp [decodeZ, nField]

@[simp] theorem decodeLeaf_eq_ok_iff {w : Word} {j : Instr} : decodeLeaf w = .ok j ↔
    (w.extractLsb' 27 1 = 0#1 ∧ w.extractLsb' 8 10 = 0#10) ∧ .wrLeaf (aField w) (symField w) = j := by
  simp [decodeLeaf]

@[simp] theorem decodeInternal_eq_ok_iff {w : Word} {j : Instr} : decodeInternal w = .ok j ↔
    w.extractLsb' 27 1 = 0#1 ∧ .wrInternal (aField w) (lField w) (rField w) = j := by
  simp [decodeInternal]

@[simp] theorem decodeT_eq_ok_iff {w : Word} {i : NodeAddr → Instr} {j : Instr} : decodeT w i = .ok j ↔
    (w.extractLsb' 27 1 = 0#1 ∧ w.extractLsb' 0 18 = 0#18) ∧ i (aField w) = j := by
  simp [decodeT]

@[simp] theorem decodeS_eq_ok_iff {w : Word} {i : Symbol → Instr} {j : Instr} : decodeS w i = .ok j ↔
    w.extractLsb' 8 20 = 0#20 ∧ i (symField w) = j := by
  simp [decodeS]

@[simp] theorem decodeStage_eq_ok_iff {w : Word} {j : Instr} : decodeStage w = .ok j ↔
    w.extractLsb' 16 8 = 0#8 ∧ .codeStage (kField w) (dataField w) = j := by
  simp [decodeStage]

@[simp] theorem decodeWrCode_eq_ok_iff {w : Word} {j : Instr} : decodeWrCode w = .ok j ↔
    (w.extractLsb' 16 12 = 0#12 ∧ lenField w ≠ 0#8) ∧ .wrCode (symField w) (lenField w) = j := by
  unfold decodeWrCode
  split_ifs <;> simp_all

@[simp] theorem decodeBits_eq_ok_iff {w : Word} {j : Instr} : decodeBits w = .ok j ↔
    (w.extractLsb' 16 8 = 0#8 ∧ dataField w >>> ((kField w).toNat + 1) = 0#16) ∧
      .decBits (kField w) (dataField w) = j := by
  unfold decodeBits
  split_ifs <;> simp_all

@[simp] theorem decodeY_eq_ok_iff {w : Word} {j : Instr} : decodeY w = .ok j ↔
    w.extractLsb' 16 8 = 0#8 ∧
      (kField w = 0#4 ∧ w.extractLsb' 2 14 = 0#14 ∧ .setCtrl (dataField w) = j ∨
        kField w = 1#4 ∧ (w.extractLsb' 0 4 = 0#4 ∧ w.extractLsb' 9 7 = 0#7) ∧ .clrStatus (dataField w) = j ∨
        kField w = 2#4 ∧ w.extractLsb' 2 14 = 0#14 ∧ .abort (dataField w) = j) := by
  unfold decodeY
  split_ifs <;> simp_all

/-! ### A word is its fields side by side, less the reserved ones (R68) -/

theorem formatZ_word {w : Word} {op : BitVec 4} (ho : opField w = op)
    (hres : w.extractLsb' 0 28 = 0#28) : put 28 op = w :=
  eq_of_fields [(28, 4), (0, 28)] (by decide) (by simp [← ho, opField, extract_put_same, extract_put_disjoint, hres])

theorem leaf_word {w : Word} {op : BitVec 4} (ho : opField w = op)
    (hres : w.extractLsb' 27 1 = 0#1 ∧ w.extractLsb' 8 10 = 0#10) :
    put 28 op ||| put 18 (aField w) ||| put 0 (symField w) = w :=
  eq_of_fields [(28, 4), (27, 1), (18, 9), (8, 10), (0, 8)] (by decide)
    (by simp [← ho, opField, aField, symField, extract_or, extract_put_same, extract_put_disjoint, hres])

theorem internal_word {w : Word} {op : BitVec 4} (ho : opField w = op) (hres : w.extractLsb' 27 1 = 0#1) :
    put 28 op ||| put 18 (aField w) ||| put 9 (lField w) ||| put 0 (rField w) = w :=
  eq_of_fields [(28, 4), (27, 1), (18, 9), (9, 9), (0, 9)] (by decide)
    (by simp [← ho, opField, aField, lField, rField, extract_or, extract_put_same, extract_put_disjoint, hres])

theorem formatT_word {w : Word} {op : BitVec 4} (ho : opField w = op)
    (hres : w.extractLsb' 27 1 = 0#1 ∧ w.extractLsb' 0 18 = 0#18) :
    put 28 op ||| put 18 (aField w) = w :=
  eq_of_fields [(28, 4), (27, 1), (18, 9), (0, 18)] (by decide)
    (by simp [← ho, opField, aField, extract_or, extract_put_same, extract_put_disjoint, hres])

theorem wrCode_word {w : Word} {op : BitVec 4} (ho : opField w = op) (hres : w.extractLsb' 16 12 = 0#12) :
    put 28 op ||| put 8 (lenField w) ||| put 0 (symField w) = w :=
  eq_of_fields [(28, 4), (16, 12), (8, 8), (0, 8)] (by decide)
    (by simp [← ho, opField, lenField, symField, extract_or, extract_put_same, extract_put_disjoint, hres])

theorem formatS_word {w : Word} {op : BitVec 4} (ho : opField w = op)
    (hres : w.extractLsb' 8 20 = 0#20) : put 28 op ||| put 0 (symField w) = w :=
  eq_of_fields [(28, 4), (8, 20), (0, 8)] (by decide)
    (by simp [← ho, opField, symField, extract_or, extract_put_same, extract_put_disjoint, hres])

theorem formatD_word {w : Word} {op : BitVec 4} (ho : opField w = op) (hres : w.extractLsb' 16 8 = 0#8) :
    put 28 op ||| put 24 (kField w) ||| put 0 (dataField w) = w :=
  eq_of_fields [(28, 4), (24, 4), (16, 8), (0, 16)] (by decide)
    (by simp [← ho, opField, kField, dataField, extract_or, extract_put_same, extract_put_disjoint, hres])

theorem formatN_word {w : Word} {op : BitVec 4} (ho : opField w = op) : put 28 op ||| put 0 (nField w) = w :=
  eq_of_fields [(28, 4), (0, 28)] (by decide)
    (by simp [← ho, opField, nField, extract_or, extract_put_same, extract_put_disjoint])

/-- A word that decodes is put together again by the encoder: no format drops a bit that is not reserved. -/
theorem encode_of_decode {w : Word} {i : Instr} (h : decode w = .ok i) : encode i = w := by
  have ho := (decode_opcode_wellFormed h).1
  cases i <;> simp only [decode, ho, Instr.opcode, BitVec.reduceEq, reduceIte] at h
  case nop | clrTree | clrCodes | encStart | encEnd => exact formatZ_word ho (decodeZ_eq_ok_iff.1 h).1
  case wrLeaf a sym =>
    obtain ⟨hres, hi⟩ := decodeLeaf_eq_ok_iff.1 h
    exact hi ▸ leaf_word ho hres
  case wrInternal a l r =>
    obtain ⟨hres, hi⟩ := decodeInternal_eq_ok_iff.1 h
    exact hi ▸ internal_word ho hres
  case clrNode a | setRoot a =>
    obtain ⟨hres, hi⟩ := decodeT_eq_ok_iff.1 h
    exact hi ▸ formatT_word ho hres
  case codeStage k data =>
    obtain ⟨hres, hi⟩ := decodeStage_eq_ok_iff.1 h
    exact hi ▸ formatD_word ho hres
  case wrCode sym len =>
    obtain ⟨⟨hres, -⟩, hi⟩ := decodeWrCode_eq_ok_iff.1 h
    exact hi ▸ wrCode_word ho hres
  case clrCode sym | encSym sym =>
    obtain ⟨hres, hi⟩ := decodeS_eq_ok_iff.1 h
    exact hi ▸ formatS_word ho hres
  case decStart n =>
    obtain ⟨rfl⟩ := h
    exact formatN_word ho
  case decBits k data =>
    obtain ⟨⟨hres, -⟩, hi⟩ := decodeBits_eq_ok_iff.1 h
    exact hi ▸ formatD_word ho hres
  case setCtrl arg | clrStatus arg | abort arg =>
    obtain ⟨hres, hi⟩ := decodeY_eq_ok_iff.1 h
    obtain ⟨hk, -, rfl⟩ : kField w = _ ∧ _ ∧ dataField w = arg := by simpa using hi
    have hw := formatD_word ho hres
    rwa [hk] at hw

/-- Settles O1: one lemma of the laws per command; the decoder reads each field where the encoder put it. -/
theorem decodeOfEncodeIsTheInstruction : Obligations.DecodeOfEncodeIsTheInstruction := fun _ h => decode_encode h

/-- Settles O2: the fields of a word that decodes are those its command's encoding puts down. -/
theorem decodedWordsEncodeBack : Obligations.DecodedWordsEncodeBack :=
  fun _ _ h => ⟨(decode_opcode_wellFormed h).2, encode_of_decode h⟩

/-! ### The reserved encodings (R72) -/

/-- A shift to the right is 0 when every bit it keeps is 0. -/
theorem shiftRight_eq_zero_iff {n : Nat} (v : BitVec n) (k : Nat) :
    v >>> k = 0#n ↔ ∀ j, k ≤ j → v.getLsbD j = false := by
  constructor
  · intro h j hj
    have hbit := congrArg (·.getLsbD (j - k)) h
    simpa [show k + (j - k) = j by omega] using hbit
  · intro h
    apply BitVec.eq_of_getLsbD_eq
    intro j _
    simpa using h (k + j) (by omega)

/-- The values of `SUB`: those of the three commands of format Y, and the rest. -/
theorem sub_values (k : BitVec 4) : k = 0#4 ∨ k = 1#4 ∨ k = 2#4 ∨ k ≠ 0#4 ∧ k ≠ 1#4 ∧ k ≠ 2#4 ∧ 3 ≤ k.toNat := by
  revert k
  decide

/-- Each clause of R72 is the failure of one check of the format's decoder: by `OP`, and by `SUB` in format Y. -/
theorem reservedEncoding_iff (w : Word) : ReservedEncoding w ↔ ¬ ∃ i, decode w = .ok i := by
  rcases opField_values w with ho | ho | ho | ho | ho
  · simp [ReservedEncoding, decode, ho, imp_iff_not_or]
  · simp [ReservedEncoding, decode, ho]
  · simp [ReservedEncoding, decode, ho, shiftRight_eq_zero_iff, imp_iff_not_or]
  · rcases sub_values (kField w) with hk | hk | hk | ⟨h0, h1, h2, hk⟩
    case inr.inr.inr => simp [ReservedEncoding, decode, ho, h0, h1, h2, hk]
    all_goals simp [ReservedEncoding, decode, ho, hk, imp_iff_not_or]
  · simp only [List.mem_cons, List.not_mem_nil, or_false] at ho
    rcases ho with ho | ho | ho | ho | ho | ho | ho | ho | ho | ho | ho | ho <;>
      simp [ReservedEncoding, decode, ho, imp_iff_not_or]

/-! ### The rows of the opcode map (R70, R71) -/

/-- The fields a row's mask is made of: `OP`, then `SUB` in format Y, then the reserved ones (R68, R72). -/
def maskFields (mask : Word) : List BitRange :=
  if mask = 0xFFFFFFFF#32 then [(28, 4), (0, 28)]
  else if mask = 0xF803FF00#32 then [(28, 4), (27, 1), (8, 10)]
  else if mask = 0xF8000000#32 then [(28, 4), (27, 1)]
  else if mask = 0xF803FFFF#32 then [(28, 4), (27, 1), (0, 18)]
  else if mask = 0xF0FF0000#32 then [(28, 4), (16, 8)]
  else if mask = 0xFFFF0000#32 then [(28, 4), (16, 12)]
  else if mask = 0xFFFFFF00#32 then [(28, 4), (8, 20)]
  else if mask = 0xF0000000#32 then [(28, 4)]
  else if mask = 0xFFFFFFFC#32 then [(28, 4), (24, 4), (16, 8), (2, 14)]
  else [(28, 4), (24, 4), (16, 8), (0, 4), (9, 7)]

/-- A word is a row's when it has the row's value in each field of the row's mask. -/
theorem hits_iff {r : OpRow} (hr : r ∈ opmap) (w : Word) :
    r.hits w = true ↔ ∀ f ∈ maskFields r.mask, w.extractLsb' f.1 f.2 = r.pattern.extractLsb' f.1 f.2 := by
  have hmask : ∀ r ∈ opmap, (∀ j < 32, r.mask.getLsbD j = covers (maskFields r.mask) j) ∧
      r.pattern &&& r.mask = r.pattern := by decide
  obtain ⟨hfields, hpattern⟩ := hmask r hr
  rw [← and_eq_iff_fields hfields, hpattern, OpRow.hits, beq_iff_eq]

/-- The row of a command in the opcode map. -/
def Instr.row : Instr → OpRow
  | .nop => opmap[0]
  | .wrLeaf _ _ => opmap[1]
  | .wrInternal _ _ _ => opmap[2]
  | .clrNode _ => opmap[3]
  | .clrTree => opmap[4]
  | .setRoot _ => opmap[5]
  | .codeStage _ _ => opmap[6]
  | .wrCode _ _ => opmap[7]
  | .clrCode _ => opmap[8]
  | .clrCodes => opmap[9]
  | .encStart => opmap[10]
  | .encSym _ => opmap[11]
  | .encEnd => opmap[12]
  | .decStart _ => opmap[13]
  | .decBits _ _ => opmap[14]
  | .setCtrl _ => opmap[15]
  | .clrStatus _ => opmap[16]
  | .abort _ => opmap[17]

theorem Instr.row_mem (i : Instr) : i.row ∈ opmap := by
  cases i <;> exact List.getElem_mem _

theorem Instr.row_mnemonic (i : Instr) : i.row.mnemonic = i.mnemonic := by
  cases i <;> rfl

/-- The word of a well-formed command has its row's value in every field of the row's mask. -/
theorem row_hits_encode {i : Instr} (h : i.wellFormed = true) : i.row.hits (encode i) = true := by
  rw [hits_iff i.row_mem]
  cases i with
  | setCtrl | clrStatus | abort =>
    simp_all [Instr.wellFormed, Instr.row, opmap, maskFields, encode, extract_or, extract_put_same,
      extract_put_disjoint, extract_put_within]
  | _ => simp [Instr.row, opmap, maskFields, encode, extract_or, extract_put_same, extract_put_disjoint]

/-- A row's extra condition is what well-formedness asks of the command's operands. -/
theorem row_extra_encode {i : Instr} (h : i.wellFormed = true) : i.row.extra.holds (encode i) = true := by
  cases i with
  | wrCode sym len =>
    have hlen : lenField (encode (.wrCode sym len)) = len := by
      simp [lenField, encode, extract_or, extract_put_same, extract_put_disjoint]
    rw [← hlen] at h
    exact h
  | decBits k data =>
    have hk : kField (encode (.decBits k data)) = k := by
      simp [kField, encode, extract_or, extract_put_same, extract_put_disjoint]
    have hdata : dataField (encode (.decBits k data)) = data := by
      simp [dataField, encode, extract_or, extract_put_same, extract_put_disjoint]
    simpa [Instr.row, opmap, ExtraCondition.holds, hk, hdata, Instr.wellFormed] using h
  | _ => rfl

/-- A row's fields and its extra condition are what the decoder of the row's format checks. -/
theorem decode_of_row {r : OpRow} {w : Word} (hr : r ∈ opmap) (hhits : r.hits w = true)
    (hextra : r.extra.holds w = true) : ∃ i, decode w = .ok i := by
  rw [hits_iff hr] at hhits
  simp only [opmap, List.mem_cons, List.not_mem_nil, or_false] at hr
  rcases hr with rfl | rfl | rfl | rfl | rfl | rfl | rfl | rfl | rfl | rfl | rfl | rfl | rfl | rfl | rfl | rfl | rfl |
    rfl <;>
    simp_all [maskFields, decode, opField, kField, ExtraCondition.holds]

theorem legal_iff (w : Word) : legal w = true ↔ ∃ i, decode w = .ok i := by
  rw [legal, List.any_eq_true]
  constructor
  · rintro ⟨r, hr, h⟩
    obtain ⟨hhits, hextra⟩ := Bool.and_eq_true_iff.1 h
    exact decode_of_row hr hhits hextra
  · rintro ⟨i, h⟩
    have hwf := (decode_opcode_wellFormed h).2
    rw [← encode_of_decode h]
    exact ⟨i.row, i.row_mem, Bool.and_eq_true_iff.2 ⟨row_hits_encode hwf, row_extra_encode hwf⟩⟩

/-- Two rows ask different values of the bits that both their masks hold. -/
theorem row_unique {w : Word} {r r' : OpRow} (hr : r ∈ opmap) (hr' : r' ∈ opmap) (h : r.hits w = true)
    (h' : r'.hits w = true) : r = r' := by
  have hapart : ∀ r ∈ opmap, ∀ r' ∈ opmap, r = r' ∨ r.pattern &&& r'.mask ≠ r'.pattern &&& r.mask := by decide
  refine (hapart r hr r' hr').resolve_right fun hne => hne ?_
  rw [← eq_of_beq h, ← eq_of_beq h', BitVec.and_assoc, BitVec.and_comm r.mask, BitVec.and_assoc]

/-- Settles O3: a command's own row is the row of its word, and the table itself keeps the rows apart. -/
theorem legalWordsAreTheRowsOfTheOpcodeMap : Obligations.LegalWordsAreTheRowsOfTheOpcodeMap := by
  refine ⟨legal_iff, fun w i h => ?_, fun w r hr r' hr' => row_unique hr hr'⟩
  have hwf := (decode_opcode_wellFormed h).2
  rw [← encode_of_decode h]
  exact ⟨i.row, i.row_mem, row_hits_encode hwf, row_extra_encode hwf, i.row_mnemonic⟩

/-- Settles O4: R72's words are those with no command, so the executor's step on one is the rejection of R119. -/
theorem reservedEncodingsAreRejectedAsIllegal : Obligations.ReservedEncodingsAreRejectedAsIllegal := by
  refine ⟨fun w => ?_, fun s w rest hres hport hacc => ?_⟩
  · rw [reservedEncoding_iff, ← legal_iff, Bool.not_eq_true]
  · cases hd : decode w with
    | ok i => exact absurd ⟨i, hd⟩ ((reservedEncoding_iff w).1 hres)
    | error r =>
      rw [executorStep_taken s w rest hport hacc, executeWord_illegal w r _ hd, commandError_eq]
      rfl

/-- Settles O5: fixed words, decoded by evaluation. -/
theorem exampleWordsDecodeAsWritten : Obligations.ExampleWordsDecodeAsWritten := by
  unfold Obligations.ExampleWordsDecodeAsWritten
  decide

end Sys2Proof

end

section
/-! PROOFS. The pseudo-commands' bit strings in chunks: DEC_STREAM (O54) and LOAD_CODE (O25). The assembler's operand
checks (O55). -/

namespace Sys2Proof.Machine

/-! ### Bit strings as numbers, and in chunks of DATA (R75, R76) -/

/-- Bit `i` of a string's number is its `i`-th element. -/
theorem testBit_bitsValue (bits : List Bool) (i : Nat) : (bitsValue bits).testBit i = bits.getD i false := by
  induction bits generalizing i with
  | nil => simp [bitsValue]
  | cons b bs ih =>
    cases i with
    | zero => cases b <;> simp [bitsValue, Nat.testBit_zero]
    | succ i =>
      have hhalf : (b.toNat + 2 * bitsValue bs) / 2 = bitsValue bs := by
        have := b.toNat_lt
        omega
      rw [bitsValue, Nat.testBit_succ, hhalf, ih, List.getD_cons_succ]

/-- A chunk's bits are the string's, from the chunk's first on. -/
theorem getLsbD_dataChunk (bits : List Bool) (j n i : Nat) (hn : n ≤ 16) :
    (dataChunk bits j n).getLsbD i = (decide (i < n) && bits.getD (16 * j + i) false) := by
  rw [dataChunk, BitVec.getLsbD_ofNat, testBit_bitsValue]
  by_cases hi : i < n
  · simp [hi, show i < 16 by omega]
  · simp [hi]

/-! ### DEC_STREAM (R76) -/

/-- The operands of command `j` of DEC_STREAM. -/
def streamChunk (bits : List Bool) (j : Nat) : BitVec 4 × BitVec 16 :=
  (BitVec.ofNat 4 (min 16 (bits.length - 16 * j) - 1), dataChunk bits j (min 16 (bits.length - 16 * j)))

theorem decStreamBits_eq (bits : List Bool) :
    decStreamBits bits =
      ((List.range ((bits.length + 15) / 16)).map (streamChunk bits)).map fun c => .decBits c.1 c.2 := by
  simp [decStreamBits, streamChunk]

/-- A chunk that has a bit holds as many bits as its count field says. -/
theorem streamChunk_count {bits : List Bool} {j : Nat} (h : 16 * j < bits.length) :
    (streamChunk bits j).1.toNat + 1 = min 16 (bits.length - 16 * j) := by
  simp only [streamChunk, BitVec.toNat_ofNat]
  omega

/-- A command of DEC_STREAM delivers the next bits of the string, at most 16. -/
theorem deliveredBits_streamChunk {bits : List Bool} {j : Nat} (h : 16 * j < bits.length) :
    deliveredBits (streamChunk bits j).1 (streamChunk bits j).2 = (bits.drop (16 * j)).take 16 := by
  apply List.ext_getElem
  · simp [length_deliveredBits, streamChunk_count h]
  · intro i hi hi'
    have hlt : i < min 16 (bits.length - 16 * j) := by simpa using hi'
    have hbit : bits.getD (16 * j + i) false = bits[16 * j + i] := List.getD_eq_getElem _ _ _
    simpa [deliveredBits, streamChunk, getLsbD_dataChunk, show i < 16 by omega, show i < bits.length - 16 * j by omega]
      using hbit

theorem streamChunk_wellFormed {bits : List Bool} {j : Nat} (h : 16 * j < bits.length) :
    (Instr.decBits (streamChunk bits j).1 (streamChunk bits j).2).wellFormed = true := by
  rw [Instr.wellFormed, beq_iff_eq, streamChunk_count h, shiftRight_eq_zero_iff]
  intro i hi
  rw [streamChunk, getLsbD_dataChunk _ _ _ _ (by omega)]
  simp [Nat.not_lt.2 hi]

/-- Chunks of 16 bits, one after the other. -/
theorem flatMap_chunks (bits : List Bool) (n : Nat) :
    (List.range n).flatMap (fun j => (bits.drop (16 * j)).take 16) = bits.take (16 * n) := by
  induction n with
  | zero => simp
  | succ n ih => simp [List.range_succ, ih, Nat.mul_succ, List.take_add]

/-- Settles O54: each command delivers one chunk of the string, and the chunks are the string. -/
theorem decStreamDeliversItsBits : Obligations.DecStreamDeliversItsBits := by
  intro bits
  have hchunk : ∀ j ∈ List.range ((bits.length + 15) / 16), 16 * j < bits.length := fun j hj => by
    have := List.mem_range.1 hj
    omega
  refine ⟨_, decStreamBits_eq bits, ?_, ?_⟩
  · calc sessionBits ((List.range ((bits.length + 15) / 16)).map (streamChunk bits))
        = (List.range ((bits.length + 15) / 16)).flatMap fun j => (bits.drop (16 * j)).take 16 := by
          rw [sessionBits, List.flatMap_map]
          exact List.flatMap_congr fun j hj => deliveredBits_streamChunk (hchunk j hj)
      _ = bits.take (16 * ((bits.length + 15) / 16)) := flatMap_chunks bits _
      _ = bits := List.take_of_length_le (by omega)
  · intro c hc
    obtain ⟨j, hj, rfl⟩ := List.mem_map.1 hc
    exact streamChunk_wellFormed (hchunk j hj)

/-! ### LOAD_CODE (R76, R88) -/

/-- Commands run after commands that end in a next state. -/
theorem execAll_append_of_next (is js : List Instr) {s t : State} (h : execAll is s = .next t) :
    execAll (is ++ js) s = execAll js t := by
  induction is generalizing s with
  | nil => cases h; rfl
  | cons i is ih =>
    rw [List.cons_append]
    simp only [execAll] at h ⊢
    cases hi : exec i s with
    | next u =>
      simp only [hi] at h ⊢
      exact ih h
    | fault r => simp [hi] at h
    | refused r => simp [hi] at h

/-- The first `n` CODE_STAGE commands of LOAD_CODE. -/
def stageCommands (path : List Bool) (n : Nat) : List Instr :=
  (List.range n).map fun k => .codeStage (BitVec.ofNat 4 k) (dataChunk path k 16)

/-- They stage the path's bits `0 .. 16n-1`, 0 past its end, and change nothing else (R88, R89). -/
theorem stage_chunks (path : List Bool) (s : State) (n : Nat) (hn : n ≤ 16) :
    ∃ g, execAll (stageCommands path n) s = .next { s with stage := g } ∧
      ∀ j < 16 * n, g.getLsbD j = path.getD j false := by
  induction n with
  | zero => exact ⟨s.stage, rfl, by simp⟩
  | succ n ih =>
    obtain ⟨g, hrun, hbits⟩ := ih (by omega)
    have hk : (BitVec.ofNat 4 n).toNat = n := by simp; omega
    refine ⟨stageChunk g (BitVec.ofNat 4 n) (dataChunk path n 16), ?_, fun j hj => ?_⟩
    · rw [stageCommands, List.range_succ, List.map_append]
      exact execAll_append_of_next _ _ hrun
    · rw [getLsbD_stageChunk, hk]
      split_ifs with hin
      · rw [getLsbD_dataChunk _ _ _ _ le_rfl, decide_eq_true (by omega), Bool.true_and,
          show 16 * n + (j - 16 * n) = j by omega]
      · exact hbits j (by omega)

/-- A staged path, cut to its length, is stored as the path. -/
theorem pathOf_stagedBits {g : Stage} {path : List Bool} (hlen : path.length ≤ 255)
    (hg : ∀ j < path.length, g.getLsbD j = path.getD j false) :
    pathOf (BitVec.ofNat 8 path.length) (stagedBits g (BitVec.ofNat 8 path.length)) = path := by
  have hl : (BitVec.ofNat 8 path.length).toNat = path.length := by simp; omega
  apply List.ext_getElem
  · rw [length_pathOf, hl]
  · intro j _ hj
    simp [pathOf, getLsbD_stagedBits, hl, hj, hg j hj]

theorem codePath_writeCode (s : State) (q r : Symbol) (len : BitVec 8) (bits : CodeBits) :
    codePath (writeCode s q (.code len bits)) r = if r = q then some (pathOf len bits) else codePath s r := by
  rw [codePath, codeAt_writeCode]
  split_ifs <;> rfl

theorem exec_wrCode_idle (q : Symbol) (len : BitVec 8) {s : State} (hidle : s.estate = .idle) :
    exec (.wrCode q len) s = .next (writeCode s q (.code len (stagedBits s.stage len))) :=
  congrArg _ (whenEncoderIdle_idle _ _ _ hidle)

/-- Settles O25: the chunks are staged, so WR_CODE stores the path; the induction is on the number of chunks. -/
theorem loadCodeStoresThePath : Obligations.LoadCodeStoresThePath := by
  intro q path s _ hlen hidle
  obtain ⟨g, hrun, hbits⟩ := stage_chunks path s ((path.length + 15) / 16) (by omega)
  have hpath := pathOf_stagedBits hlen fun j hj => hbits j (by omega)
  refine ⟨(writeCode s q (.code (BitVec.ofNat 8 path.length) (stagedBits g (BitVec.ofNat 8 path.length)))).codes, g,
    (execAll_append_of_next _ _ hrun).trans ?_, fun r => ?_⟩
  · rw [execAll, exec_wrCode_idle (s := { s with stage := g }) q _ hidle]
    rfl
  · refine (codePath_writeCode { s with stage := g } q r _ _).trans ?_
    rw [hpath]
    rfl

/-! ### The assembler (R75, R76) -/

/-- A line goes on with the field of an operand that fits it. -/
theorem fit_bind {α : Type} (width n : Nat) (f : BitVec width → Option α) :
    (fit width n).bind f = if n < 2 ^ width then f (BitVec.ofNat width n) else none := by
  unfold fit
  split_ifs <;> rfl

theorem assemble_decBits (n data : Nat) : assemble (.decBits n data) =
    if 1 ≤ n ∧ n ≤ 16 ∧ data < 65536 then some [.decBits (BitVec.ofNat 4 (n - 1)) (BitVec.ofNat 16 data)]
    else none := by
  by_cases hn : 1 ≤ n
  · simp [assemble, fit_bind, ite_and, hn, show n - 1 < 16 ↔ n ≤ 16 by omega]
  · simp [assemble, hn]

theorem assemble_decBit (b : Bool) : assemble (.decBit b) = some [.decBits 0#4 (if b then 1#16 else 0#16)] := by
  cases b <;> rfl

theorem assemble_decStream (bits : List Bool) : assemble (.decStream bits) =
    if bits.length < 2 ^ 28 then some (.decStart (BitVec.ofNat 28 bits.length) :: decStreamBits bits) else none :=
  fit_bind 28 bits.length fun _ => some (decStream bits)

theorem assemble_loadCode (sym : Nat) (path : List Bool) : assemble (.loadCode sym path) =
    if sym < 256 ∧ 1 ≤ path.length ∧ path.length ≤ 255 then some (loadCode (BitVec.ofNat 8 sym) path) else none := by
  by_cases hs : sym < 256 <;> simp [assemble, fit_bind, hs]

/-- Settles O55: a line's operands are fitted one by one; the lines with a further check have lemmas above. -/
theorem assemblerRefusesOperandsThatDoNotFit : Obligations.AssemblerRefusesOperandsThatDoNotFit := by
  refine ⟨?_, ?_, ?_, ?_, ?_, ?_, ?_, ?_, ?_, assemble_decBits, ?_, ?_, ?_, assemble_decBit, assemble_decStream,
    assemble_loadCode, rfl, rfl⟩ <;>
  · intros
    simp [assemble, fit_bind, ite_and]

end Sys2Proof.Machine

end

section
/-! PROOFS. A command in a session state that allows it is its effect, and the tree commands (O18, O19, O20). -/

namespace Sys2Proof.Machine

/-- A command that its session state allows answers its effect (R78, R87, R99 to R101, R104, R105). -/
theorem exec_of_allowed {i : Instr} {s : State} (h : allowed i s) : exec i s = .next (effect i s) := by
  cases i with
  | nop | codeStage | setCtrl | clrStatus | abort => rfl
  | wrLeaf | wrInternal | clrNode | clrTree | setRoot | decStart =>
    exact congrArg _ (whenDecoderIdle_idle _ s _ h)
  | wrCode | clrCode | clrCodes | encStart => exact congrArg _ (whenEncoderIdle_idle _ s _ h)
  | encSym q =>
    cases hs : s.estate with
    | idle => exact absurd hs h
    | active | faulted => simp [exec, execEncSym, effect, hs]
  | encEnd =>
    cases hs : s.estate with
    | idle => exact absurd hs h
    | active | faulted => simp [exec, execEncEnd, effect, hs]
  | decBits k data =>
    obtain ⟨hopen, hbits⟩ := h
    have hroom : deliverBits k data s = walkBits (deliveredBits k data) s := if_neg (by omega)
    cases hs : s.dstate with
    | idle => exact absurd hs hopen
    | active | faulted => simp [exec, execDecBits, effect, hs, hroom]

theorem execAll_cons_of_allowed {i : Instr} {s : State} (h : allowed i s) (is : List Instr) :
    execAll (i :: is) s = execAll is (effect i s) := by
  rw [execAll, exec_of_allowed h]

/-- A tree command is allowed with no decode session open (R78). -/
theorem allowed_of_isTreeCommand {i : Instr} {s : State} (hi : isTreeCommand i = true) (hidle : s.dstate = .idle) :
    allowed i s := by
  cases i with
  | wrLeaf | wrInternal | clrNode | clrTree | setRoot => exact hidle
  | _ => cases hi

/-- A tree command in an open decode session is rejected (R78). -/
theorem exec_tree_open {i : Instr} {s : State} (hi : isTreeCommand i = true) (hopen : s.dstate ≠ .idle) :
    exec i s = .next (commandError .sequence (encode i) s) := by
  cases i with
  | wrLeaf | wrInternal | clrNode | clrTree | setRoot => exact congrArg _ (whenDecoderIdle_open _ s _ hopen)
  | _ => cases hi

/-- What a tree command does looks at no encoder session, and keeps it and `cmd_err` (R78). -/
theorem effect_tree_frame {i : Instr} (hi : isTreeCommand i = true) (s : State) :
    (effect i s).cmdErr = s.cmdErr ∧
      ∀ e : Session, effect i { s with estate := e } = { effect i s with estate := e } := by
  cases i with
  | wrLeaf | wrInternal | clrNode | clrTree | setRoot => exact ⟨rfl, fun _ => rfl⟩
  | _ => cases hi

/-- Settles O18: an open session rejects the command; with none open the command is its effect. -/
theorem treeCommandsNeedAnIdleDecoder : Obligations.TreeCommandsNeedAnIdleDecoder := by
  intro i s hi
  refine ⟨fun hopen => ?_, fun hidle => ?_⟩
  · rw [Rejects, exec_tree_open hi hopen, commandError_eq]
  · obtain ⟨hcmd, hestate⟩ := effect_tree_frame hi s
    refine ⟨effect i s, exec_of_allowed (allowed_of_isTreeCommand hi hidle), hcmd, fun e => ?_⟩
    rw [← hestate e]
    exact exec_of_allowed (allowed_of_isTreeCommand hi hidle)

/-- Settles O19: each effect is one write of the node memory. -/
theorem nodeWritesReplaceOneEntry : Obligations.NodeWritesReplaceOneEntry := by
  intro s a hidle
  exact ⟨fun q => ⟨_, exec_of_allowed (i := .wrLeaf a q) hidle, fun b => nodeAt_writeNode s a b _⟩,
    fun l r => ⟨_, exec_of_allowed (i := .wrInternal a l r) hidle, fun b => nodeAt_writeNode s a b _⟩,
    _, exec_of_allowed (i := .clrNode a) hidle, fun b => nodeAt_writeNode s a b _⟩

/-- Settles O20: a memory that lists nothing reads as EMPTY everywhere. -/
theorem clearTreeAndSetRoot : Obligations.ClearTreeAndSetRoot := by
  intro s hidle
  exact ⟨⟨_, exec_of_allowed (i := .clrTree) hidle, fun _ => rfl⟩,
    fun a => exec_of_allowed (i := .setRoot a) hidle⟩

end Sys2Proof.Machine

end

section
/-! PROOFS. A decode session's DEC_BITS commands are one walk over its bits; the walk on a LEAF root (O41). -/

namespace Sys2Proof.Machine

/-! ### A decode session as one walk (R103, R105) -/

theorem sessionBits_cons (c : BitVec 4 × BitVec 16) (cs : List (BitVec 4 × BitVec 16)) :
    sessionBits (c :: cs) = deliveredBits c.1 c.2 ++ sessionBits cs := rfl

/-- Every DEC_BITS delivers a bit. -/
theorem sessionBits_eq_nil_iff {cs : List (BitVec 4 × BitVec 16)} : sessionBits cs = [] ↔ cs = [] := by
  cases cs with
  | nil => simp [sessionBits]
  | cons c cs =>
    have := length_deliveredBits c.1 c.2
    have hbits : deliveredBits c.1 c.2 ≠ [] := List.ne_nil_of_length_pos (by omega)
    simp [sessionBits_cons, hbits]

/-- DEC_BITS commands for which an open session has the bits left to come walk over all of them. -/
theorem execAll_decBits (cs : List (BitVec 4 × BitVec 16)) (s : State) (hopen : cs ≠ [] → s.dstate ≠ .idle)
    (hbits : (sessionBits cs).length ≤ s.remain.toNat) :
    execAll (cs.map fun c => .decBits c.1 c.2) s = .next (walkBits (sessionBits cs) s) := by
  induction cs generalizing s with
  | nil => rfl
  | cons c cs ih =>
    rw [sessionBits_cons, List.length_append, length_deliveredBits] at hbits
    have hs : s.dstate ≠ .idle := hopen (List.cons_ne_nil c cs)
    obtain ⟨hrem, -, -, -, hend⟩ := walkBits_counts (deliveredBits c.1 c.2) s hs
      (by rw [length_deliveredBits]; omega) (by omega)
    rw [length_deliveredBits] at hrem hend
    have hallowed : allowed (.decBits c.1 c.2) s := ⟨hs, by omega⟩
    rw [List.map_cons, execAll_cons_of_allowed hallowed, sessionBits_cons, walkBits_append]
    refine ih (walkBits (deliveredBits c.1 c.2) s) (fun hcs hidle => hcs ?_) (by omega)
    have hlast := hend.1 hidle
    exact sessionBits_eq_nil_iff.1 (List.length_eq_zero_iff.1 (by omega))

/-- DEC_START opens a session of the bits to come; of none, it ends at once (R104). -/
theorem openDecode_zero (s : State) :
    openDecode 0#28 s = { s with remain := 0#28, consumed := 0#28, cur := s.root, mid := false, symcount := 0#28
                                 dout := s.dout ++ [.done .ok 0#28], decDone := true } := rfl

theorem openDecode_pos {n : Count} (hn : n ≠ 0#28) (s : State) :
    openDecode n s = { s with remain := n, consumed := 0#28, cur := s.root, mid := false, symcount := 0#28
                              dstate := .active } := by
  simp [openDecode, hn]

/-- A decode session whose DEC_BITS deliver as many bits as it expects (R103). -/
theorem execAll_decodeSession {n : Count} {cs : List (BitVec 4 × BitVec 16)} {s : State} (hidle : s.dstate = .idle)
    (hbits : (sessionBits cs).length = n.toNat) :
    execAll (decodeSession n cs) s = .next (walkBits (sessionBits cs) (openDecode n s)) := by
  rw [decodeSession, execAll_cons_of_allowed (i := .decStart n) hidle, effect]
  by_cases hn : n = 0#28
  · subst hn
    obtain rfl : cs = [] := sessionBits_eq_nil_iff.1 (List.length_eq_zero_iff.1 hbits)
    rfl
  · rw [openDecode_pos hn]
    exact execAll_decBits cs _ (fun _ hd => by cases hd) (Nat.le_of_eq hbits)

/-! ### A LEAF root (R85, R106) -/

/-- An ACTIVE session between symbols, its root a LEAF. -/
structure AtLeafRoot (q : Symbol) (s : State) : Prop where
  active : s.dstate = .active
  at_root : s.cur = s.root
  not_mid : s.mid = false
  leaf : nodeAt s s.root = .leaf q

/-- A bit on a LEAF root, whatever its value, gives the root's symbol; after the last one comes END(OK). -/
theorem AtLeafRoot.walkBit {q : Symbol} {s : State} (h : AtLeafRoot q s) (b : Bool) :
    walkBit s b =
      if s.remain - 1#28 = 0#28 then { endDecode .ok (emitSymbol q (countBit s)) with dstate := .idle }
      else emitSymbol q (countBit s) := by
  have hleaf : nodeAt (countBit s) (countBit s).cur = .leaf q := by
    rw [countBit_cur, h.at_root]
    exact h.leaf
  have hwalk : walkCursor b s.consumed (countBit s) = emitSymbol q (countBit s) := by simp only [walkCursor, hleaf]
  rw [walkBit_active s b h.active, hwalk, endOfBits_eq]
  simp only [emitSymbol_remain, countBit_remain, emitSymbol_dstate, countBit_dstate, h.active, emitSymbol_mid]

/-- All the bits of a session on a LEAF root (R85). -/
theorem AtLeafRoot.walkBits {q : Symbol} {s : State} (h : AtLeafRoot q s) {bs : List Bool} (hne : bs ≠ [])
    (hbits : bs.length = s.remain.toNat) :
    (walkBits bs s).dout = s.dout ++ List.replicate bs.length (.sym q) ++
      [.done .ok (s.symcount + BitVec.ofNat 28 bs.length)] ∧ (walkBits bs s).decErr = s.decErr := by
  induction bs generalizing s with
  | nil => exact absurd rfl hne
  | cons b bs ih =>
    rw [List.length_cons] at hbits
    have hrem : (s.remain - 1#28).toNat = bs.length := by rw [toNat_sub_one _ (by omega)]; omega
    rw [walkBits_cons, h.walkBit b]
    by_cases hlast : s.remain - 1#28 = 0#28
    · obtain rfl : bs = [] := List.length_eq_zero_iff.1 (by rw [← hrem, hlast]; rfl)
      simp [hlast, walkBits_nil]
    · have hbs : bs ≠ [] := fun he => hlast (BitVec.eq_of_toNat_eq (by rw [hrem, he]; rfl))
      have hnext : AtLeafRoot q (emitSymbol q (countBit s)) := ⟨h.active, rfl, rfl, h.leaf⟩
      obtain ⟨hdout, herr⟩ := ih hnext hbs hrem.symm
      have hcount : BitVec.ofNat 28 (bs.length + 1) = 1#28 + BitVec.ofNat 28 bs.length := by
        rw [Nat.add_comm, BitVec.ofNat_add]
      rw [if_neg hlast]
      refine ⟨?_, herr⟩
      rw [hdout, List.length_cons, hcount, ← BitVec.add_assoc, List.replicate_succ]
      simp

/-- Settles O41: the session is one walk from its opening state, by induction on its bits. -/
theorem degenerateTreeGivesItsSymbolForEveryBit : Obligations.DegenerateTreeGivesItsSymbolForEveryBit := by
  intro q n cs s hidle hleaf hbits
  refine ⟨_, execAll_decodeSession hidle hbits, ?_⟩
  by_cases hn : n = 0#28
  · subst hn
    rw [List.length_eq_zero_iff.1 hbits]
    simp [walkBits_nil, openDecode_zero]
  · rw [openDecode_pos hn]
    have hne : sessionBits cs ≠ [] := fun he => hn (BitVec.eq_of_toNat_eq (by rw [← hbits, he]; rfl))
    obtain ⟨hdout, herr⟩ := AtLeafRoot.walkBits (q := q) (s := { s with
      remain := n, consumed := 0#28, cur := s.root, mid := false, symcount := 0#28, dstate := .active })
      ⟨rfl, rfl, rfl, hleaf⟩ hne hbits
    refine ⟨?_, herr⟩
    rw [hdout, hbits]
    simp

end Sys2Proof.Machine

end

section
/-! PROOFS. Loading a tree and its code table (O53): the entries the two lists of commands write, the tree in the node
memory, and the codes beside it. -/

namespace Sys2Proof.Machine

/-! ### Entries written one after the other -/

/-- The memory with a list of entries written, in order. -/
def Memory.writeAll {α : Type} [DecidableEq α] (d : α) (m : Memory α) (es : List (Nat × α)) : Memory α :=
  es.foldl (fun m e => Memory.write d m e.1 e.2) m

/-- A read after several writes gives an entry written there, or, with none, what it gave before. -/
theorem Memory.read_writeAll {α : Type} [DecidableEq α] (d : α) (m : Memory α) (es : List (Nat × α)) (k : Nat) :
    (∃ e ∈ es, e.1 = k ∧ Memory.read d (Memory.writeAll d m es) k = e.2) ∨
      (∀ e ∈ es, e.1 ≠ k) ∧ Memory.read d (Memory.writeAll d m es) k = Memory.read d m k := by
  induction es generalizing m with
  | nil => exact .inr ⟨by simp, rfl⟩
  | cons e es ih =>
    obtain ⟨e', he', hk, hread⟩ | ⟨habsent, hread⟩ := ih (Memory.write d m e.1 e.2)
    · exact .inl ⟨e', List.mem_cons_of_mem e he', hk, hread⟩
    · rw [Memory.read_write] at hread
      by_cases hk : k = e.1
      · exact .inl ⟨e, List.mem_cons_self, hk.symm, hread.trans (if_pos hk)⟩
      · exact .inr ⟨List.forall_mem_cons.2 ⟨Ne.symm hk, habsent⟩, hread.trans (if_neg hk)⟩

/-! ### The subtree at a path (R86, R94) -/

/-- The subtree a path of child selections leads to. -/
def subtreeAt : HuffTree → List Bool → Option HuffTree
  | t, [] => some t
  | .leaf _, _ :: _ => none
  | .node l r, b :: p => subtreeAt (selectSubtree b l r) p

@[simp] theorem subtreeAt_nil (t : HuffTree) : subtreeAt t [] = some t := by cases t <;> rfl

@[simp] theorem subtreeAt_leaf_cons (q : Symbol) (b : Bool) (p : List Bool) : subtreeAt (.leaf q) (b :: p) = none := rfl

@[simp] theorem subtreeAt_node_cons (l r : HuffTree) (b : Bool) (p : List Bool) :
    subtreeAt (.node l r) (b :: p) = subtreeAt (selectSubtree b l r) p := rfl

theorem subtreeAt_append (t : HuffTree) (p p' : List Bool) :
    subtreeAt t (p ++ p') = (subtreeAt t p).bind fun u => subtreeAt u p' := by
  induction p generalizing t with
  | nil => simp
  | cons b p ih =>
    cases t with
    | leaf q => rfl
    | node l r => exact ih (selectSubtree b l r)

/-- The subtree below a node at a path. -/
theorem subtreeAt_child {t l r : HuffTree} {p : List Bool} (h : subtreeAt t p = some (.node l r)) (b : Bool) :
    subtreeAt t (p ++ [b]) = some (selectSubtree b l r) := by
  simp [subtreeAt_append, h]

/-- The nodes of a tree whose root is at `path`, each with its path and its subtree, in the order of `treeCommands`. -/
def subtrees (path : List Bool) : HuffTree → List (List Bool × HuffTree)
  | .leaf q => [(path, .leaf q)]
  | .node l r => (path, .node l r) :: (subtrees (path ++ [false]) l ++ subtrees (path ++ [true]) r)

theorem mem_subtrees {path p : List Bool} {t u : HuffTree} :
    (p, u) ∈ subtrees path t ↔ ∃ p', p = path ++ p' ∧ subtreeAt t p' = some u := by
  induction t generalizing path with
  | leaf q =>
    constructor
    · intro h
      obtain ⟨rfl, rfl⟩ : p = path ∧ u = .leaf q := by simpa [subtrees] using h
      exact ⟨[], by simp⟩
    · rintro ⟨_ | ⟨b, p'⟩, rfl, h⟩
      · simpa [subtrees, eq_comm] using h
      · cases h
  | node l r ihl ihr =>
    simp only [subtrees, List.mem_cons, List.mem_append, ihl, ihr, Prod.mk.injEq]
    constructor
    · rintro (⟨rfl, rfl⟩ | ⟨p', rfl, h⟩ | ⟨p', rfl, h⟩)
      · exact ⟨[], by simp⟩
      · exact ⟨false :: p', by simp, h⟩
      · exact ⟨true :: p', by simp, h⟩
    · rintro ⟨_ | ⟨b, p'⟩, rfl, h⟩
      · exact .inl (by simpa [eq_comm] using h)
      · cases b with
        | false => exact .inr (.inl ⟨p', by simp, h⟩)
        | true => exact .inr (.inr ⟨p', by simp, h⟩)

theorem mem_subtrees_root {p : List Bool} {t u : HuffTree} : (p, u) ∈ subtrees [] t ↔ subtreeAt t p = some u := by
  simp [mem_subtrees]

theorem nodePaths_eq (path : List Bool) (t : HuffTree) : nodePaths path t = (subtrees path t).map Prod.fst := by
  induction t generalizing path with
  | leaf q => rfl
  | node l r ihl ihr => simp [nodePaths, subtrees, ihl, ihr]

theorem mem_leafPaths {path p : List Bool} {t : HuffTree} {q : Symbol} :
    (q, p) ∈ leafPaths path t ↔ (p, .leaf q) ∈ subtrees path t := by
  induction t generalizing path with
  | leaf q' => simp [leafPaths, subtrees, and_comm]
  | node l r ihl ihr => simp [leafPaths, subtrees, ihl, ihr]

theorem mem_nodePaths_of_subtreeAt {t u : HuffTree} {p : List Bool} (h : subtreeAt t p = some u) :
    p ∈ nodePaths [] t := by
  rw [nodePaths_eq]
  exact List.mem_map_of_mem (mem_subtrees_root.2 h)

theorem mem_leafPaths_root {t : HuffTree} {p : List Bool} {q : Symbol} :
    (q, p) ∈ leafPaths [] t ↔ subtreeAt t p = some (.leaf q) :=
  mem_leafPaths.trans mem_subtrees_root

/-! ### Running the commands (R79, R80, R84) -/

/-- The entry that holds the node at a path (R84). -/
def entryOf (addr : List Bool → NodeAddr) (p : List Bool) : HuffTree → Node
  | .leaf q => .leaf q
  | .node _ _ => .internal (addr (p ++ [false])) (addr (p ++ [true]))

/-- The command that writes the node at a path. -/
def nodeCommand (addr : List Bool → NodeAddr) (e : List Bool × HuffTree) : Instr :=
  match e.2 with
  | .leaf q => .wrLeaf (addr e.1) q
  | .node _ _ => .wrInternal (addr e.1) (addr (e.1 ++ [false])) (addr (e.1 ++ [true]))

theorem treeCommands_eq (addr : List Bool → NodeAddr) (path : List Bool) (t : HuffTree) :
    treeCommands addr path t = (subtrees path t).map (nodeCommand addr) := by
  induction t generalizing path with
  | leaf q => rfl
  | node l r ihl ihr => simp [treeCommands, subtrees, nodeCommand, ihl, ihr]

theorem exec_nodeCommand (addr : List Bool → NodeAddr) (e : List Bool × HuffTree) {s : State}
    (hidle : s.dstate = .idle) : exec (nodeCommand addr e) s = .next (writeNode s (addr e.1) (entryOf addr e.1 e.2)) := by
  obtain ⟨p, u⟩ := e
  cases u with
  | leaf q => exact exec_of_allowed (i := .wrLeaf _ _) hidle
  | node l r => exact exec_of_allowed (i := .wrInternal _ _ _) hidle

/-- The entries that the commands of a tree write. -/
def treeEntries (addr : List Bool → NodeAddr) (es : List (List Bool × HuffTree)) : List (Nat × Node) :=
  es.map fun e => ((addr e.1).toNat, entryOf addr e.1 e.2)

theorem execAll_nodeCommands (addr : List Bool → NodeAddr) (es : List (List Bool × HuffTree)) (s : State)
    (hidle : s.dstate = .idle) :
    execAll (es.map (nodeCommand addr)) s =
      .next { s with nodes := Memory.writeAll .empty s.nodes (treeEntries addr es) } := by
  induction es generalizing s with
  | nil => rfl
  | cons e es ih =>
    rw [List.map_cons, execAll, exec_nodeCommand addr e hidle]
    exact ih (writeNode s (addr e.1) (entryOf addr e.1 e.2)) hidle

/-- The node memory after the tree's commands (R82, R84). -/
def treeMemory (addr : List Bool → NodeAddr) (t : HuffTree) : Memory Node :=
  Memory.writeAll .empty [] (treeEntries addr (subtrees [] t))

theorem execAll_loadTree (addr : List Bool → NodeAddr) (t : HuffTree) {s : State} (hidle : s.dstate = .idle) :
    execAll (loadTree addr t) s = .next { s with nodes := treeMemory addr t, root := addr [] } := by
  rw [loadTree, execAll_cons_of_allowed (i := .clrTree) hidle, treeCommands_eq]
  refine (execAll_append_of_next _ _ (execAll_nodeCommands addr (subtrees [] t) (clearNodes s) hidle)).trans
    (execAll_cons_of_allowed (i := .setRoot (addr [])) ?_ [])
  exact hidle

/-! ### Running the table's commands (R92 to R94) -/

/-- The entry that holds a path as a code (R50, R88). -/
def codeOf (path : List Bool) : CodeEntry :=
  .code (BitVec.ofNat 8 path.length) (stagedBits (BitVec.ofNat 256 (bitsValue path)) (BitVec.ofNat 8 path.length))

/-- Bits below a code's length come from the staged path, and those above are 0. -/
theorem stagedBits_congr {g g' : Stage} {len : BitVec 8} (h : ∀ j < len.toNat, g.getLsbD j = g'.getLsbD j) :
    stagedBits g len = stagedBits g' len := by
  apply BitVec.eq_of_getLsbD_eq
  intro j _
  rw [getLsbD_stagedBits, getLsbD_stagedBits]
  by_cases hj : j < len.toNat
  · rw [h j hj]
  · simp [hj]

/-- A path's number, staged. -/
theorem getLsbD_stagedPath {path : List Bool} (hlen : path.length ≤ 255) {j : Nat} (hj : j < path.length) :
    (BitVec.ofNat 256 (bitsValue path)).getLsbD j = path.getD j false := by
  rw [BitVec.getLsbD_ofNat, testBit_bitsValue, decide_eq_true (by omega), Bool.true_and]

/-- The code that holds a path is that path. -/
theorem pathOf_of_codeOf {path : List Bool} (hlen : path.length ≤ 255) {len : BitVec 8} {bits : CodeBits}
    (h : codeOf path = .code len bits) : pathOf len bits = path := by
  obtain ⟨rfl, rfl⟩ := CodeEntry.code.inj h
  exact pathOf_stagedBits hlen fun _ hj => getLsbD_stagedPath hlen hj

/-- The code of a single leaf is "0" (R93). -/
theorem codeOf_false : codeOf [false] = .code 1#8 0#255 := by decide

/-- LOAD_CODE writes one entry of the table, and the staging register (R76, R90). -/
theorem execAll_loadCode (q : Symbol) {path : List Bool} (hlen : path.length ≤ 255) {s : State}
    (hidle : s.estate = .idle) :
    ∃ g, execAll (loadCode q path) s = .next { writeCode s q (codeOf path) with stage := g } := by
  obtain ⟨g, hrun, hbits⟩ := stage_chunks path s ((path.length + 15) / 16) (by omega)
  have hl : (BitVec.ofNat 8 path.length).toNat = path.length := by simp; omega
  have hcode : stagedBits g (BitVec.ofNat 8 path.length) =
      stagedBits (BitVec.ofNat 256 (bitsValue path)) (BitVec.ofNat 8 path.length) := by
    refine stagedBits_congr fun j hj => ?_
    rw [hl] at hj
    rw [hbits j (by omega), getLsbD_stagedPath hlen hj]
  refine ⟨g, (execAll_append_of_next _ _ hrun).trans ?_⟩
  rw [execAll_cons_of_allowed (i := .wrCode _ _) (s := { s with stage := g }) hidle, execAll, effect, hcode]
  rfl

/-- The entries that the LOAD_CODEs of some symbols write. -/
def tableEntries (es : List (Symbol × List Bool)) : List (Nat × CodeEntry) := es.map fun e => (e.1.toNat, codeOf e.2)

theorem execAll_loadCodes (es : List (Symbol × List Bool)) (hlen : ∀ e ∈ es, e.2.length ≤ 255) (s : State)
    (hidle : s.estate = .idle) :
    ∃ g, execAll (es.flatMap fun e => loadCode e.1 e.2) s =
      .next { s with codes := Memory.writeAll .invalid s.codes (tableEntries es), stage := g } := by
  induction es generalizing s with
  | nil => exact ⟨s.stage, rfl⟩
  | cons e es ih =>
    obtain ⟨hlen, hlens⟩ := List.forall_mem_cons.1 hlen
    obtain ⟨g, hrun⟩ := execAll_loadCode e.1 hlen hidle
    obtain ⟨g', hrun'⟩ := ih hlens { writeCode s e.1 (codeOf e.2) with stage := g } hidle
    exact ⟨g', (execAll_append_of_next _ _ hrun).trans hrun'⟩

/-- The code table after the table's commands (R92 to R94). -/
def tableMemory (t : HuffTree) : Memory CodeEntry := Memory.writeAll .invalid [] (tableEntries (codeTableOf t))

theorem execAll_loadTable {t : HuffTree} (hlen : ∀ e ∈ codeTableOf t, e.2.length ≤ 255) {s : State}
    (hidle : s.estate = .idle) :
    ∃ g, execAll (loadTable t) s = .next { s with codes := tableMemory t, stage := g } := by
  rw [loadTable, execAll_cons_of_allowed (i := .clrCodes) hidle]
  exact execAll_loadCodes (codeTableOf t) hlen (clearCodes s) hidle

/-! ### The tree in the node memory (R84, R86) -/

/-- The state's node memory and root are those of a tree loaded at `addr`. -/
structure HoldsTree (addr : List Bool → NodeAddr) (t : HuffTree) (s : State) : Prop where
  root : s.root = addr []
  entry : ∀ p u, subtreeAt t p = some u → nodeAt s (addr p) = entryOf addr p u

/-- Distinct addresses keep each entry as it was written (R84). -/
theorem HoldsTree.of_loaded {addr : List Bool → NodeAddr} {t : HuffTree} (hload : Loadable addr t) {s : State}
    (hroot : s.root = addr []) (hnodes : s.nodes = treeMemory addr t) : HoldsTree addr t s where
  root := hroot
  entry p u hu := by
    have hmem : ((addr p).toNat, entryOf addr p u) ∈ treeEntries addr (subtrees [] t) :=
      List.mem_map.2 ⟨(p, u), mem_subtrees_root.2 hu, rfl⟩
    obtain ⟨e, he, haddr, hread⟩ | ⟨habsent, -⟩ :=
      Memory.read_writeAll .empty [] (treeEntries addr (subtrees [] t)) (addr p).toNat
    · obtain ⟨⟨p', u'⟩, hu', rfl⟩ := List.mem_map.1 he
      have hu' := mem_subtrees_root.1 hu'
      obtain rfl : p' = p := hload.one_to_one p' p (mem_nodePaths_of_subtreeAt hu') (mem_nodePaths_of_subtreeAt hu)
        (BitVec.eq_of_toNat_eq haddr)
      obtain rfl : u' = u := Option.some.inj (hu'.symm.trans hu)
      rw [nodeAt, hnodes]
      exact hread
    · exact absurd rfl (habsent _ hmem)

section
variable {addr : List Bool → NodeAddr} {t : HuffTree} {s : State}

theorem HoldsTree.represents (h : HoldsTree addr t s) {p : List Bool} {u : HuffTree} (hu : subtreeAt t p = some u) :
    Represents s (addr p) u := by
  induction u generalizing p with
  | leaf q => exact h.entry p _ hu
  | node l r ihl ihr =>
    exact ⟨_, _, h.entry p _ hu, ihl (subtreeAt_child hu false), ihr (subtreeAt_child hu true)⟩

/-- The child of a node of the tree is the node of the subtree below it. -/
theorem HoldsTree.childOf_eq_some (h : HoldsTree addr t s) {p : List Bool} {u : HuffTree}
    (hu : subtreeAt t p = some u) {b : Bool} {c : NodeAddr} (hc : childOf s (addr p) b = some c) :
    c = addr (p ++ [b]) ∧ ∃ v, subtreeAt t (p ++ [b]) = some v := by
  have he := h.entry p u hu
  cases u with
  | leaf q => simp [childOf, he, entryOf] at hc
  | node l r =>
    refine ⟨?_, _, subtreeAt_child hu b⟩
    cases b <;> simpa [childOf, he, entryOf, selectChild, eq_comm] using hc

/-- A path below a node of the tree leads to the subtree's node, or, with no subtree there, nowhere. -/
theorem HoldsTree.follow_eq (h : HoldsTree addr t s) (p' : List Bool) {p : List Bool} {u : HuffTree}
    (hu : subtreeAt t p = some u) :
    follow s (addr p) p' = (subtreeAt u p').map fun _ => addr (p ++ p') := by
  induction p' generalizing p u with
  | nil => simp [follow]
  | cons b p' ih =>
    have he := h.entry p u hu
    cases u with
    | leaf q => simp [follow, childOf, he, entryOf]
    | node l r =>
      have hc : childOf s (addr p) b = some (addr (p ++ [b])) := by
        cases b <;> simp [childOf, he, entryOf, selectChild]
      simpa [follow, hc] using ih (subtreeAt_child hu b)

/-- The reachable addresses are those of the tree's nodes (R86). -/
theorem HoldsTree.reach_iff (h : HoldsTree addr t s) {a : NodeAddr} :
    Reach s a ↔ ∃ p u, subtreeAt t p = some u ∧ a = addr p := by
  simp [Reach, h.root, h.follow_eq _ (subtreeAt_nil t), eq_comm (a := a)]

theorem HoldsTree.entry_ne_empty (h : HoldsTree addr t s) {p : List Bool} {u : HuffTree}
    (hu : subtreeAt t p = some u) : nodeAt s (addr p) ≠ .empty := by
  rw [h.entry p u hu]
  cases u <;> simp [entryOf]

theorem HoldsTree.entry_eq_leaf_iff (h : HoldsTree addr t s) {p : List Bool} {u : HuffTree}
    (hu : subtreeAt t p = some u) {q : Symbol} : nodeAt s (addr p) = .leaf q ↔ u = .leaf q := by
  rw [h.entry p u hu]
  cases u <;> simp [entryOf]

/-- The reachable leaves are the tree's. -/
theorem HoldsTree.reach_leaf_iff (h : HoldsTree addr t s) {a : NodeAddr} {q : Symbol} :
    (Reach s a ∧ nodeAt s a = .leaf q) ↔ ∃ p, subtreeAt t p = some (.leaf q) ∧ a = addr p := by
  rw [h.reach_iff]
  constructor
  · rintro ⟨⟨p, u, hu, rfl⟩, hq⟩
    rw [h.entry_eq_leaf_iff hu] at hq
    exact ⟨p, hq ▸ hu, rfl⟩
  · rintro ⟨p, hu, rfl⟩
    exact ⟨⟨p, _, hu, rfl⟩, h.entry p _ hu⟩

/-- A loadable tree in the node memory is well formed (R86). -/
theorem HoldsTree.wellFormed (h : HoldsTree addr t s) (hload : Loadable addr t) : TreeWellFormed s := by
  have hinj {p p' : List Bool} {u u' : HuffTree} (hu : subtreeAt t p = some u) (hu' : subtreeAt t p' = some u')
      (ha : addr p = addr p') : p = p' :=
    hload.one_to_one p p' (mem_nodePaths_of_subtreeAt hu) (mem_nodePaths_of_subtreeAt hu') ha
  constructor
  case root_present =>
    rw [h.root]
    exact h.entry_ne_empty (subtreeAt_nil t)
  case children_present =>
    intro a b c ha hc
    obtain ⟨p, u, hu, rfl⟩ := h.reach_iff.1 ha
    obtain ⟨rfl, v, hv⟩ := h.childOf_eq_some hu hc
    exact h.entry_ne_empty hv
  case acyclic =>
    intro a p' ha hne hfollow
    obtain ⟨p, u, hu, rfl⟩ := h.reach_iff.1 ha
    rw [h.follow_eq p' hu, Option.map_eq_some_iff] at hfollow
    obtain ⟨v, hv, haddr⟩ := hfollow
    have hv' : subtreeAt t (p ++ p') = some v := by rw [subtreeAt_append, hu]; exact hv
    exact hne (by simpa using hinj hv' hu haddr)
  case one_parent =>
    intro a b a' b' c ha ha' hc hc'
    obtain ⟨p, u, hu, rfl⟩ := h.reach_iff.1 ha
    obtain ⟨p', u', hu', rfl⟩ := h.reach_iff.1 ha'
    obtain ⟨rfl, v, hv⟩ := h.childOf_eq_some hu hc
    obtain ⟨haddr, v', hv'⟩ := h.childOf_eq_some hu' hc'
    obtain ⟨rfl, hb⟩ := List.append_inj' (hinj hv hv' haddr) rfl
    exact ⟨rfl, List.singleton_inj.1 hb⟩
  case symbols_distinct =>
    intro a a' q ha ha' hq hq'
    obtain ⟨p, hp, rfl⟩ := h.reach_leaf_iff.1 ⟨ha, hq⟩
    obtain ⟨p', hp', rfl⟩ := h.reach_leaf_iff.1 ⟨ha', hq'⟩
    have he := List.inj_on_of_nodup_map hload.symbols_distinct (mem_leafPaths_root.2 hp) (mem_leafPaths_root.2 hp') rfl
    rw [(Prod.mk.inj he).2]

end

/-! ### The codes beside the tree (R93 to R95) -/

/-- A code of a loadable tree has a path that fits (R7). -/
theorem length_le_of_mem_codeTableOf {addr : List Bool → NodeAddr} {t : HuffTree} (hload : Loadable addr t) :
    ∀ e ∈ codeTableOf t, e.2.length ≤ 255 := by
  cases t with
  | leaf q => simp [codeTableOf]
  | node l r => exact hload.short_codes

/-- The symbols in a tree's table are those of its leaves (R93, R94). -/
theorem exists_mem_codeTableOf_iff {t : HuffTree} {q : Symbol} :
    (∃ p, (q, p) ∈ codeTableOf t) ↔ ∃ p, subtreeAt t p = some (.leaf q) := by
  simp only [← mem_leafPaths_root]
  cases t with
  | leaf q' => simp [codeTableOf, leafPaths]
  | node l r => rfl

/-- After the table is loaded a symbol's code is a path the table gives it, and a symbol without one has no code. -/
theorem codeAt_of_loaded {t : HuffTree} {s : State} (h : s.codes = tableMemory t) (q : Symbol) :
    (∃ p, (q, p) ∈ codeTableOf t ∧ codeAt s q = codeOf p) ∨
      (∀ p, (q, p) ∉ codeTableOf t) ∧ codeAt s q = .invalid := by
  rw [codeAt, h]
  obtain ⟨e, he, hq, hread⟩ | ⟨habsent, hread⟩ :=
    Memory.read_writeAll .invalid [] (tableEntries (codeTableOf t)) q.toNat
  · obtain ⟨⟨q', p⟩, hp, rfl⟩ := List.mem_map.1 he
    obtain rfl : q' = q := BitVec.eq_of_toNat_eq hq
    exact .inl ⟨p, hp, hread⟩
  · exact .inr ⟨fun p hp => habsent _ (List.mem_map.2 ⟨(q, p), hp, rfl⟩) rfl, hread⟩

/-- A loadable tree and its table, loaded, are consistent (R95). -/
theorem consistent_of_loaded {addr : List Bool → NodeAddr} {t : HuffTree} {s : State} (hload : Loadable addr t)
    (h : HoldsTree addr t s) (hcodes : s.codes = tableMemory t) : Consistent s where
  tree := h.wellFormed hload
  coded_iff_leaf q := by
    have hleaf : (∃ a, Reach s a ∧ nodeAt s a = .leaf q) ↔ ∃ p, subtreeAt t p = some (.leaf q) := by
      simp only [h.reach_leaf_iff]
      exact ⟨fun ⟨_, p, hp, _⟩ => ⟨p, hp⟩, fun ⟨p, hp⟩ => ⟨_, p, hp, rfl⟩⟩
    rw [hleaf, ← exists_mem_codeTableOf_iff]
    obtain ⟨p, hp, hcode⟩ | ⟨habsent, hcode⟩ := codeAt_of_loaded hcodes q
    · simp only [hcode, codeOf, ne_eq, reduceCtorEq, not_false_eq_true, true_iff]
      exact ⟨p, hp⟩
    · simp [hcode, habsent]
  code_is_path q len bits left right hroot hcode := by
    cases t with
    | leaf q' =>
      rw [h.root, (h.entry_eq_leaf_iff (subtreeAt_nil _)).2 rfl] at hroot
      cases hroot
    | node l r =>
      obtain ⟨p, hp, hcode'⟩ | ⟨-, hcode'⟩ := codeAt_of_loaded hcodes q <;> rw [hcode] at hcode'
      · have hpath := mem_leafPaths_root.1 hp
        rw [pathOf_of_codeOf (length_le_of_mem_codeTableOf hload _ hp) hcode'.symm, h.root]
        exact ⟨addr p, by simp [h.follow_eq p (subtreeAt_nil _), hpath], h.entry p _ hpath⟩
      · cases hcode'
  degenerate_code q hroot := by
    rw [h.root, h.entry_eq_leaf_iff (subtreeAt_nil t)] at hroot
    subst hroot
    obtain ⟨p, hp, hcode⟩ | ⟨habsent, -⟩ := codeAt_of_loaded hcodes q
    · obtain rfl : p = [false] := by simpa [codeTableOf] using hp
      exact hcode.trans codeOf_false
    · exact absurd (List.mem_singleton.2 rfl) (habsent [false])

/-- Settles O53: the commands write the tree's entries and then the table's; the addresses and the symbols keep the
entries apart. -/
theorem loadingATreeAndItsTableIsConsistent : Obligations.LoadingATreeAndItsTableIsConsistent := by
  intro addr tree s hload hdec henc
  have htree := execAll_loadTree addr tree hdec
  obtain ⟨g, htable⟩ := execAll_loadTable (length_le_of_mem_codeTableOf hload)
    (s := { s with nodes := treeMemory addr tree, root := addr [] }) henc
  have hholds : HoldsTree addr tree { s with nodes := treeMemory addr tree, root := addr []
                                             codes := tableMemory tree, stage := g } := .of_loaded hload rfl rfl
  exact ⟨_, (execAll_append_of_next _ _ htree).trans htable, rfl, hholds.represents (subtreeAt_nil tree),
    consistent_of_loaded hload hholds rfl, rfl, rfl, rfl, hdec, henc⟩

end Sys2Proof.Machine

end

section
/-! PROOFS. The code table commands (O21, O22, O23, O24). -/

namespace Sys2Proof.Machine

/-- A code table command that checks the encoder is allowed with no encode session open (R87). -/
theorem allowed_of_isCodeCommand {i : Instr} {s : State} (hi : isCodeCommand i = true) (hidle : s.estate = .idle) :
    allowed i s := by
  cases i with
  | wrCode | clrCode | clrCodes => exact hidle
  | _ => cases hi

/-- A code table command in an open encode session is rejected (R87). -/
theorem exec_code_open {i : Instr} {s : State} (hi : isCodeCommand i = true) (hopen : s.estate ≠ .idle) :
    exec i s = .next (commandError .sequence (encode i) s) := by
  cases i with
  | wrCode | clrCode | clrCodes => exact congrArg _ (whenEncoderIdle_open _ s _ hopen)
  | _ => cases hi

/-- What a code table command does looks at no decoder session, and keeps it and `cmd_err` (R87). -/
theorem effect_code_frame {i : Instr} (hi : isCodeCommand i = true) (s : State) :
    (effect i s).cmdErr = s.cmdErr ∧
      ∀ d : Session, effect i { s with dstate := d } = { effect i s with dstate := d } := by
  cases i with
  | wrCode | clrCode | clrCodes => exact ⟨rfl, fun _ => rfl⟩
  | _ => cases hi

/-- Settles O21: an open encode session rejects the command; with none open, and for CODE_STAGE always, the command is
its effect. -/
theorem codeCommandsNeedAnIdleEncoder : Obligations.CodeCommandsNeedAnIdleEncoder := by
  refine ⟨fun i s hi => ⟨fun hopen => ?_, fun hidle => ?_⟩, fun k data s => ⟨stageChunk s.stage k data, fun d e => ?_⟩⟩
  · rw [Rejects, exec_code_open hi hopen, commandError_eq]
  · obtain ⟨hcmd, hdstate⟩ := effect_code_frame hi s
    refine ⟨effect i s, exec_of_allowed (allowed_of_isCodeCommand hi hidle), hcmd, fun d => ?_⟩
    rw [← hdstate d]
    exact exec_of_allowed (allowed_of_isCodeCommand hi hidle)
  · exact exec_of_allowed (i := .codeStage k data) trivial

/-- Settles O22: the effect writes `stage` alone, bit by bit as the law of its chunk says. -/
theorem codeStageWritesOneChunk : Obligations.CodeStageWritesOneChunk := fun k data s =>
  ⟨_, exec_of_allowed (i := .codeStage k data) trivial, getLsbD_stageChunk s.stage k data⟩

/-- Settles O23: the effect is one write of the code table. -/
theorem writeCodeStoresTheStagedBits : Obligations.WriteCodeStoresTheStagedBits := fun q len s hidle =>
  ⟨_, _, exec_wrCode_idle q len hidle, fun r => codeAt_writeCode s q r _, getLsbD_stagedBits s.stage len⟩

/-- Settles O24: one write of the code table; and a table that lists nothing reads as not valid everywhere. -/
theorem clearCodesMakesEntriesInvalid : Obligations.ClearCodesMakesEntriesInvalid := by
  intro s hidle
  exact ⟨fun q => ⟨_, exec_of_allowed (i := .clrCode q) hidle, fun r => codeAt_writeCode s q r _⟩,
    _, exec_of_allowed (i := .clrCodes) hidle, fun _ => rfl⟩

end Sys2Proof.Machine

end

section
/-! PROOFS. Codes as paths of a consistent tree: none begins another (O52), and a symbol sequence encodes and decodes
back to itself (O51). -/

namespace Sys2Proof.Machine

/-! ### Following paths (R86) -/

theorem follow_append (s : State) (a : NodeAddr) (p p' : List Bool) :
    follow s a (p ++ p') = (follow s a p).bind fun c => follow s c p' := by
  induction p generalizing a with
  | nil => rfl
  | cons b p ih =>
    simp only [List.cons_append, follow]
    cases childOf s a b with
    | none => rfl
    | some c => exact ih c

/-- A path looks at the node memory alone. -/
theorem follow_congr {s t : State} (h : t.nodes = s.nodes) (a : NodeAddr) (p : List Bool) :
    follow t a p = follow s a p := by
  induction p generalizing a with
  | nil => rfl
  | cons b p ih => simp only [follow, childOf, nodeAt_congr s t _ h, ih]

/-- No path goes on from a leaf. -/
theorem follow_leaf {s : State} {a c : NodeAddr} {q : Symbol} {p : List Bool} (ha : nodeAt s a = .leaf q)
    (h : follow s a p = some c) : c = a := by
  cases p with
  | nil => exact (Option.some.inj h).symm
  | cons b p => simp [follow, childOf, ha] at h

/-- A path of more than no bits starts at an INTERNAL entry, and goes on from the child its first bit selects. -/
theorem follow_cons_eq_some {s : State} {a c : NodeAddr} {b : Bool} {p : List Bool}
    (h : follow s a (b :: p) = some c) :
    ∃ l r, nodeAt s a = .internal l r ∧ follow s (selectChild b l r) p = some c := by
  cases ha : nodeAt s a with
  | empty | leaf => simp [follow, childOf, ha] at h
  | internal l r => exact ⟨l, r, rfl, by simpa [follow, childOf, ha] using h⟩

/-! ### Codes are paths (R95, R97) -/

/-- A symbol that has a code, with the token and the path of it. -/
theorem exists_code_of_codePath_ne_none {s : State} {q : Symbol} (h : codePath s q ≠ none) :
    ∃ len bits, codeAt s q = .code len bits ∧ codePath s q = some (pathOf len bits) ∧
      codeToken s q = some (.cw len bits) := by
  cases hq : codeAt s q with
  | invalid => simp [codePath, hq] at h
  | code len bits => exact ⟨len, bits, rfl, by simp [codePath, hq], by simp [codeToken, hq]⟩

/-- Under an INTERNAL root a code leads from the root to the leaf of its symbol (R95 (b)). -/
theorem Consistent.path_to_leaf {s : State} (h : Consistent s) {l r : NodeAddr}
    (hroot : nodeAt s s.root = .internal l r) {q : Symbol} {p : List Bool} (hp : codePath s q = some p) :
    ∃ a, follow s s.root p = some a ∧ nodeAt s a = .leaf q := by
  obtain ⟨len, bits, hcode, hpath, -⟩ := exists_code_of_codePath_ne_none (s := s) (q := q) (by simp [hp])
  obtain rfl : p = pathOf len bits := Option.some.inj (hp.symm.trans hpath)
  exact h.code_is_path q len bits l r hroot hcode

/-- Under a LEAF root only the root's symbol has a code, which is one bit long (R95 (b), R93). -/
theorem Consistent.code_of_leaf_root {s : State} (h : Consistent s) {q₀ : Symbol} (hroot : nodeAt s s.root = .leaf q₀)
    {q : Symbol} {p : List Bool} (hp : codePath s q = some p) : q = q₀ ∧ p = [false] := by
  obtain ⟨len, bits, hcode, hpath, -⟩ := exists_code_of_codePath_ne_none (s := s) (q := q) (by simp [hp])
  obtain ⟨a, ⟨p', hreach⟩, hleaf⟩ := (h.coded_iff_leaf q).1 (by simp [hcode])
  obtain rfl := follow_leaf hroot hreach
  obtain rfl : q₀ = q := Node.leaf.inj (hroot.symm.trans hleaf)
  obtain ⟨rfl, rfl⟩ := CodeEntry.code.inj (hcode.symm.trans (h.degenerate_code q₀ hroot))
  exact ⟨rfl, Option.some.inj (hp.symm.trans hpath)⟩

/-- A code has a bit, whatever the root. -/
theorem Consistent.code_ne_nil {s : State} (h : Consistent s) {q : Symbol} {p : List Bool}
    (hp : codePath s q = some p) : p ≠ [] := by
  rintro rfl
  cases hroot : nodeAt s s.root with
  | empty => exact h.tree.root_present hroot
  | leaf q₀ => cases (h.code_of_leaf_root hroot hp).2
  | internal l r =>
    obtain ⟨a, hpath, hleaf⟩ := h.path_to_leaf hroot hp
    obtain rfl : s.root = a := Option.some.inj hpath
    cases hroot.symm.trans hleaf

theorem codedBits_cons {s : State} {q : Symbol} {p : List Bool} (hp : codePath s q = some p) (syms : List Symbol) :
    codedBits s (q :: syms) = p ++ codedBits s syms := by
  simp [codedBits, hp]

theorem Consistent.codedBits_ne_nil {s : State} (h : Consistent s) {syms : List Symbol} (hne : syms ≠ [])
    (hcoded : ∀ q ∈ syms, codePath s q ≠ none) : codedBits s syms ≠ [] := by
  obtain ⟨q, syms, rfl⟩ := List.exists_cons_of_ne_nil hne
  obtain ⟨p, hp⟩ := Option.ne_none_iff_exists'.1 (hcoded q List.mem_cons_self)
  rw [codedBits_cons hp]
  exact List.append_ne_nil_of_left_ne_nil (h.code_ne_nil hp) _

/-- Settles O52: a code that continued another would lead on from the other's leaf. -/
theorem codesArePrefixFree : Obligations.CodesArePrefixFree := by
  rintro s q q' p p' l r hcons hroot hp hp' hne ⟨p'', rfl⟩
  obtain ⟨a, ha, hq⟩ := hcons.path_to_leaf hroot hp
  obtain ⟨a', ha', hq'⟩ := hcons.path_to_leaf hroot hp'
  rw [follow_append, ha] at ha'
  obtain rfl := follow_leaf hq ha'
  exact hne (Node.leaf.inj (hq.symm.trans hq'))

/-! ### Decoding one code (R106) -/

/-- Several bits are counted at once (R106). -/
def countBits (k : Nat) (s : State) : State :=
  { s with consumed := s.consumed + BitVec.ofNat 28 k, remain := s.remain - BitVec.ofNat 28 k }

/-- A count with one more in front. -/
theorem ofNat_succ_count (n : Nat) : BitVec.ofNat 28 (n + 1) = 1#28 + BitVec.ofNat 28 n := by
  rw [Nat.add_comm, BitVec.ofNat_add]

theorem countBits_succ (k : Nat) (s : State) : countBits (k + 1) s = countBits k (countBit s) := by
  simp only [countBits, countBit, ofNat_succ_count k, BitVec.add_assoc, sub_add_eq_sub_sub]

/-- Counting down by no more bits than there are. -/
theorem toNat_countBits_remain {k : Nat} {s : State} (h : k ≤ s.remain.toNat) :
    (countBits k s).remain.toNat = s.remain.toNat - k := by
  have := s.remain.isLt
  simp only [countBits, BitVec.toNat_sub, BitVec.toNat_ofNat]
  omega

/-- A symbol goes out whose last bit is counted, and END(OK) after it if that was the session's last bit (R106, R107). -/
def finishSymbol (q : Symbol) (s : State) : State :=
  if s.remain = 0#28 then { endDecode .ok (emitSymbol q s) with dstate := .idle } else emitSymbol q s

/-- A bit that completes a symbol. -/
theorem walkBit_of_emit {s : State} {b : Bool} {q : Symbol} (hactive : s.dstate = .active)
    (h : walkCursor b s.consumed (countBit s) = emitSymbol q (countBit s)) :
    walkBit s b = finishSymbol q (countBit s) := by
  rw [walkBit_active s b hactive, h, endOfBits_eq]
  simp only [finishSymbol, emitSymbol_remain, emitSymbol_dstate, countBit_dstate, hactive, emitSymbol_mid]

/-- The cursor is at an INTERNAL node on the way to a leaf (R106). -/
def moveCursor (c : NodeAddr) (s : State) : State := { s with cur := c, mid := true }

/-- A bit that is not the session's last and moves the cursor to an INTERNAL node. -/
theorem walkBit_of_move {s : State} {b : Bool} {c : NodeAddr} (hactive : s.dstate = .active)
    (hrem : 2 ≤ s.remain.toNat)
    (h : walkCursor b s.consumed (countBit s) = moveCursor c (countBit s)) :
    walkBit s b = moveCursor c (countBit s) := by
  have hmore : s.remain - 1#28 ≠ 0#28 := fun he => by
    have hleft := toNat_sub_one s.remain (by omega)
    rw [he, BitVec.toNat_ofNat] at hleft
    omega
  rw [walkBit_active s b hactive, h]
  exact if_neg hmore

/-- The bits of a path from the cursor to a leaf give the leaf's symbol, and nothing else. -/
theorem walkBits_to_leaf {p : List Bool} {s : State} {a : NodeAddr} {q : Symbol} (hactive : s.dstate = .active)
    (hne : p ≠ []) (hrem : p.length ≤ s.remain.toNat) (hpath : follow s s.cur p = some a)
    (hleaf : nodeAt s a = .leaf q) : walkBits p s = finishSymbol q (countBits p.length s) := by
  induction p generalizing s with
  | nil => exact absurd rfl hne
  | cons b p ih =>
    obtain ⟨l, r, hcur, hrest⟩ := follow_cons_eq_some hpath
    have hcur' : nodeAt (countBit s) (countBit s).cur = .internal l r := hcur
    rw [walkBits_cons]
    cases p with
    | nil =>
      obtain rfl : selectChild b l r = a := Option.some.inj hrest
      have hchild : nodeAt (countBit s) (selectChild b l r) = .leaf q := hleaf
      exact walkBit_of_emit hactive (by simp only [walkCursor, hcur', hchild])
    | cons b' p =>
      obtain ⟨l', r', hchild, -⟩ := follow_cons_eq_some hrest
      have hchild' : nodeAt (countBit s) (selectChild b l r) = .internal l' r' := hchild
      simp only [List.length_cons] at hrem
      have hmove : walkBit s b = moveCursor (selectChild b l r) (countBit s) :=
        walkBit_of_move hactive (by omega) (by simp only [walkCursor, hcur', hchild', moveCursor])
      have hrem' : (b' :: p).length ≤ (s.remain - 1#28).toNat := by
        rw [toNat_sub_one _ (by omega), List.length_cons]
        omega
      have hpath' : follow (moveCursor (selectChild b l r) (countBit s)) (selectChild b l r) (b' :: p) = some a :=
        (follow_congr (s := s) (t := moveCursor _ (countBit s)) rfl _ _).trans hrest
      rw [hmove, ih (s := moveCursor _ (countBit s)) hactive (List.cons_ne_nil b' p) hrem' hpath' hleaf,
        List.length_cons (a := b), countBits_succ]
      rfl

/-! ### Decoding a sequence of codes (R96) -/

/-- An ACTIVE session between symbols, on the tree of `s`. -/
structure BetweenSymbols (s u : State) : Prop where
  active : u.dstate = .active
  at_root : u.cur = u.root
  not_mid : u.mid = false
  nodes : u.nodes = s.nodes
  root : u.root = s.root

/-- The bits of a symbol's code, whatever the root, give the symbol. -/
theorem BetweenSymbols.walkBits_code {s u : State} (h : BetweenSymbols s u) (hcons : Consistent s) {q : Symbol}
    {p : List Bool} (hp : codePath s q = some p) (hrem : p.length ≤ u.remain.toNat) :
    walkBits p u = finishSymbol q (countBits p.length u) := by
  cases hroot : nodeAt s s.root with
  | empty => exact absurd hroot hcons.tree.root_present
  | leaf q₀ =>
    obtain ⟨rfl, rfl⟩ := hcons.code_of_leaf_root hroot hp
    have hleaf : AtLeafRoot q u :=
      ⟨h.active, h.at_root, h.not_mid, by rw [nodeAt_congr s u _ h.nodes, h.root, hroot]⟩
    exact hleaf.walkBit false
  | internal l r =>
    obtain ⟨a, hpath, hleaf⟩ := hcons.path_to_leaf hroot hp
    refine walkBits_to_leaf h.active (hcons.code_ne_nil hp) hrem ?_ ((nodeAt_congr s u a h.nodes).trans hleaf)
    rw [follow_congr h.nodes, h.at_root, h.root, hpath]

/-- The codes of some symbols, as the rest of a session, give the symbols and END(OK). -/
theorem BetweenSymbols.walkBits_codes {s u : State} (h : BetweenSymbols s u) (hcons : Consistent s)
    {syms : List Symbol} (hne : syms ≠ []) (hcoded : ∀ q ∈ syms, codePath s q ≠ none)
    (hrem : (codedBits s syms).length = u.remain.toNat) :
    (walkBits (codedBits s syms) u).dout = u.dout ++ syms.map .sym ++
      [.done .ok (u.symcount + BitVec.ofNat 28 syms.length)] ∧
    (walkBits (codedBits s syms) u).decErr = u.decErr := by
  induction syms generalizing u with
  | nil => exact absurd rfl hne
  | cons q syms ih =>
    obtain ⟨hq, hcoded⟩ := List.forall_mem_cons.1 hcoded
    obtain ⟨p, hp⟩ := Option.ne_none_iff_exists'.1 hq
    rw [codedBits_cons hp] at hrem ⊢
    rw [List.length_append] at hrem
    have hleft : (countBits p.length u).remain.toNat = (codedBits s syms).length := by
      rw [toNat_countBits_remain (by omega)]
      omega
    rw [walkBits_append, h.walkBits_code hcons hp (by omega), finishSymbol]
    by_cases hsyms : syms = []
    · subst hsyms
      rw [if_pos (BitVec.eq_of_toNat_eq hleft)]
      simp [codedBits, walkBits_nil, countBits]
    · have hmore : (countBits p.length u).remain ≠ 0#28 := fun he =>
        hcons.codedBits_ne_nil hsyms hcoded (List.length_eq_zero_iff.1 (by rw [← hleft, he]; rfl))
      have hnext : BetweenSymbols s (emitSymbol q (countBits p.length u)) :=
        ⟨h.active, rfl, rfl, h.nodes, h.root⟩
      obtain ⟨hdout, herr⟩ := ih hnext hsyms hcoded hleft.symm
      rw [if_neg hmore]
      refine ⟨?_, herr⟩
      rw [hdout, List.length_cons, ofNat_succ_count, ← BitVec.add_assoc]
      simp [countBits]

/-- A decode session of the codes of some symbols (R96 (2)). -/
theorem decode_codes {s : State} {syms : List Symbol} (hcons : Consistent s) (hidle : s.dstate = .idle)
    (hcoded : ∀ q ∈ syms, codePath s q ≠ none) {n : Count} (hn : n.toNat = (codedBits s syms).length)
    {cs : List (BitVec 4 × BitVec 16)} (hbits : sessionBits cs = codedBits s syms) :
    ∃ t, execAll (decodeSession n cs) s = .next t ∧
      t.dout = s.dout ++ syms.map .sym ++ [.done .ok (BitVec.ofNat 28 syms.length)] ∧ t.decErr = s.decErr := by
  refine ⟨_, execAll_decodeSession hidle (by rw [hbits, hn]), ?_⟩
  rw [hbits]
  by_cases hsyms : syms = []
  · subst hsyms
    obtain rfl : n = 0#28 := BitVec.eq_of_toNat_eq hn
    simp [codedBits, walkBits_nil, openDecode_zero]
  · have hpos : n ≠ 0#28 := fun he =>
      hcons.codedBits_ne_nil hsyms hcoded (List.length_eq_zero_iff.1 (by rw [← hn, he]; rfl))
    have hopen : BetweenSymbols s (openDecode n s) := by
      rw [openDecode_pos hpos]
      exact ⟨rfl, rfl, rfl, rfl, rfl⟩
    have hwalk := hopen.walkBits_codes hcons hsyms hcoded (by rw [openDecode_pos hpos, hn])
    simpa [openDecode_pos hpos] using hwalk

/-! ### Encoding a sequence of symbols (R100, R102) -/

/-- Codes go out, and their bits are counted (R100). -/
def pushCodes (cws : List EToken) (k : Nat) (s : State) : State :=
  { s with eout := s.eout ++ cws, ebits := s.ebits + BitVec.ofNat 28 k }

theorem pushCodes_nil (s : State) : pushCodes [] 0 s = s := by simp [pushCodes]

theorem pushCodes_cons (c : EToken) (cws : List EToken) (k k' : Nat) (s : State) :
    pushCodes (c :: cws) (k + k') s = pushCodes cws k' (pushCodes [c] k s) := by
  simp [pushCodes, BitVec.ofNat_add, BitVec.add_assoc]

/-- A code that fits goes out (R100). -/
theorem mapSymbol_of_fits {s : State} {q : Symbol} {len : BitVec 8} {bits : CodeBits}
    (hcode : codeAt s q = .code len bits) (hfits : s.ebits.toNat + len.toNat ≤ Config.cntMax) :
    mapSymbol q s = pushCodes [.cw len bits] len.toNat s := by
  simp only [mapSymbol, hcode]
  rw [if_neg (Nat.not_lt.2 hfits), pushCodes, BitVec.ofNat_toNat]
  rfl

/-- Symbols that all have codes, in an ACTIVE session that their codes fit (R100). -/
theorem execAll_encSyms {syms : List Symbol} {s : State} (hactive : s.estate = .active)
    (hcoded : ∀ q ∈ syms, codePath s q ≠ none)
    (hfits : s.ebits.toNat + (codedBits s syms).length ≤ Config.cntMax) :
    ∃ cws, cws.map some = syms.map (codeToken s) ∧
      execAll (syms.map .encSym) s = .next (pushCodes cws (codedBits s syms).length s) := by
  induction syms generalizing s with
  | nil => exact ⟨[], rfl, congrArg _ (pushCodes_nil s).symm⟩
  | cons q syms ih =>
    obtain ⟨hq, hcoded⟩ := List.forall_mem_cons.1 hcoded
    obtain ⟨len, bits, hcode, hpath, htoken⟩ := exists_code_of_codePath_ne_none hq
    rw [codedBits_cons hpath, List.length_append, length_pathOf] at hfits ⊢
    have hnext : effect (.encSym q) s = pushCodes [.cw len bits] len.toNat s :=
      (if_pos hactive).trans (mapSymbol_of_fits hcode (by omega))
    have hfits' : (pushCodes [.cw len bits] len.toNat s).ebits.toNat + (codedBits s syms).length ≤ Config.cntMax := by
      simp only [Config.cntMax, pushCodes, BitVec.toNat_add, BitVec.toNat_ofNat] at hfits ⊢
      omega
    obtain ⟨cws, htokens, hrun⟩ := ih (s := pushCodes [.cw len bits] len.toNat s) hactive hcoded hfits'
    refine ⟨.cw len bits :: cws, ?_, ?_⟩
    · rw [List.map_cons, List.map_cons, htoken, htokens]
      rfl
    · rw [List.map_cons, execAll_cons_of_allowed (i := .encSym q) (by simp [allowed, hactive]), hnext, hrun,
        pushCodes_cons]
      rfl

/-- An encode session of symbols that all have codes, whose total fits (R96 (1)). -/
theorem encode_codes {s : State} {syms : List Symbol} (hidle : s.estate = .idle)
    (hcoded : ∀ q ∈ syms, codePath s q ≠ none) (hfits : (codedBits s syms).length ≤ Config.cntMax) :
    ∃ t cws, execAll (encodeSession syms) s = .next t ∧ cws.map some = syms.map (codeToken s) ∧
      t.eout = s.eout ++ cws ++ [.done .ok (BitVec.ofNat 28 (codedBits s syms).length)] ∧ t.encErr = s.encErr := by
  obtain ⟨cws, htokens, hrun⟩ := execAll_encSyms (s := effect .encStart s) rfl hcoded
    ((Nat.zero_add _).trans_le hfits)
  have hend : execAll (encodeSession syms) s =
      .next (effect .encEnd (pushCodes cws (codedBits s syms).length (effect .encStart s))) := by
    rw [encodeSession, execAll_cons_of_allowed (i := .encStart) hidle, execAll_append_of_next _ _ hrun]
    exact execAll_cons_of_allowed (i := .encEnd) (by simp [allowed, pushCodes, effect]) []
  exact ⟨_, cws, hend, htokens, by simp [effect, pushCodes], by simp [effect, pushCodes]⟩

/-- Settles O51: the codes go out one by one; walked over from the root, each leads back to its symbol. -/
theorem encodeThenDecodeGivesTheSymbolsBack : Obligations.EncodeThenDecodeGivesTheSymbolsBack := by
  intro s syms _ hcons hdec henc hcoded hfits
  have hn : (BitVec.ofNat 28 (codedBits s syms).length).toNat = (codedBits s syms).length := by
    rw [BitVec.toNat_ofNat]
    omega
  exact ⟨encode_codes henc hcoded hfits, fun cs hbits => decode_codes hcons hdec hcoded hn hbits⟩

end Sys2Proof.Machine

end

section
/-! PROOFS. The encoder commands, one session state at a time (O26 to O29), and an encode session as the longest run of
symbols that encode, then the first data error, if there is one (O30). -/

namespace Sys2Proof.Machine

/-! ### Each command in each session state (R99 to R101) -/

/-- A command whose outcome is its rejection, as the claims write it (R120). -/
theorem rejects_of_exec {i : Instr} {s : State} {cause : Status}
    (h : exec i s = .next (commandError cause (encode i) s)) : Rejects i s cause := by
  rw [Rejects, h, commandError_eq]

theorem exec_encSym_idle (q : Symbol) {s : State} (h : s.estate = .idle) :
    exec (.encSym q) s = .next (commandError .sequence (encode (.encSym q)) s) := by
  simp [exec, execEncSym, h]

theorem exec_encSym_active (q : Symbol) {s : State} (h : s.estate = .active) :
    exec (.encSym q) s = .next (mapSymbol q s) := by
  simp [exec, execEncSym, h]

theorem exec_encSym_faulted (q : Symbol) {s : State} (h : s.estate = .faulted) : exec (.encSym q) s = .next s := by
  simp [exec, execEncSym, h]

theorem exec_encEnd_idle {s : State} (h : s.estate = .idle) :
    exec .encEnd s = .next (commandError .sequence (encode .encEnd) s) := by
  simp [exec, execEncEnd, h]

theorem exec_encEnd_active {s : State} (h : s.estate = .active) :
    exec .encEnd s = .next { endEncode .ok s with estate := .idle } := by
  simp [exec, execEncEnd, h]

theorem exec_encEnd_faulted {s : State} (h : s.estate = .faulted) :
    exec .encEnd s = .next { s with estate := .idle } := by
  simp [exec, execEncEnd, h]

/-- The data error a symbol raises in an ACTIVE session (R100). -/
def RaisesDataError (q : Symbol) (s : State) (st : Status) : Prop :=
  (codeAt s q = .invalid ∧ st = .missingSymbol) ∨
    ∃ len bits, codeAt s q = .code len bits ∧ Config.cntMax < s.ebits.toNat + len.toNat ∧ st = .bitcountOverflow

theorem RaisesDataError.status {q : Symbol} {s : State} {st : Status} (h : RaisesDataError q s st) :
    st = .missingSymbol ∨ st = .bitcountOverflow := by
  obtain ⟨-, hst⟩ | ⟨_, _, -, -, hst⟩ := h
  · exact .inl hst
  · exact .inr hst

theorem mapSymbol_of_dataError {q : Symbol} {s : State} {st : Status} (h : RaisesDataError q s st) :
    mapSymbol q s = encodeFault st q s := by
  rcases h with ⟨hcode, rfl⟩ | ⟨len, bits, hcode, hover, rfl⟩
  · simp only [mapSymbol, hcode]
  · simp only [mapSymbol, hcode]
    exact if_pos hover

/-- Settles O26: with no session open the effect of ENC_START, otherwise its rejection. -/
theorem encStartOpensASession : Obligations.EncStartOpensASession := fun s =>
  ⟨fun hidle => exec_of_allowed (i := .encStart) hidle,
    fun hopen => rejects_of_exec (congrArg _ (whenEncoderIdle_open _ s _ hopen))⟩

/-- Settles O27: a total that fits does not wrap in the 28 bits of `ebits`. -/
theorem encSymPushesTheCode : Obligations.EncSymPushesTheCode := by
  refine fun q s => ⟨fun hidle => rejects_of_exec (exec_encSym_idle q hidle), exec_encSym_faulted q,
    fun len bits hactive hcode hfits => ⟨s.ebits + BitVec.ofNat 28 len.toNat, ?_, ?_⟩⟩
  · rw [exec_encSym_active q hactive, mapSymbol_of_fits hcode hfits]
    rfl
  · rw [BitVec.toNat_add, BitVec.toNat_ofNat]
    omega

/-- Settles O28: both data errors are one operation, with the parts of `ee_info` as its law gives them. -/
theorem encSymDataErrorsEndTheSession : Obligations.EncSymDataErrorsEndTheSession := by
  intro q s st hactive herr
  refine ⟨encodeErrorInfo st q, ?_, encodeErrorInfo_parts st q⟩
  rw [exec_encSym_active q hactive, mapSymbol_of_dataError herr, encodeFault_eq]

/-- Settles O29: one equation of ENC_END for each session state. -/
theorem encEndClosesTheSession : Obligations.EncEndClosesTheSession := fun _ =>
  ⟨fun hidle => rejects_of_exec (exec_encEnd_idle hidle), exec_encEnd_active, exec_encEnd_faulted⟩

/-! ### The first data error of a session (R100, R102) -/

/-- The symbols have codes, and the session's total fits (R100). -/
def Encodes (s : State) (syms : List Symbol) : Prop :=
  (∀ q ∈ syms, codePath s q ≠ none) ∧ (codedBits s syms).length ≤ Config.cntMax

theorem encodes_nil (s : State) : Encodes s [] := ⟨fun _ h => absurd h List.not_mem_nil, Nat.zero_le _⟩

theorem codedBits_append (s : State) (syms syms' : List Symbol) :
    codedBits s (syms ++ syms') = codedBits s syms ++ codedBits s syms' := List.flatMap_append

/-- A total that fits is its own count. -/
theorem Encodes.toNat_encodedCount {s : State} {syms : List Symbol} (h : Encodes s syms) :
    (BitVec.ofNat 28 (codedBits s syms).length).toNat = (codedBits s syms).length := by
  rw [BitVec.toNat_ofNat]
  exact Nat.mod_eq_of_lt (Nat.lt_succ_of_le h.2)

/-- The symbols before the first one that does not encode. -/
theorem exists_first_not_encodes {s : State} {syms : List Symbol} (h : ¬ Encodes s syms) :
    ∃ pre q post, syms = pre ++ q :: post ∧ Encodes s pre ∧ ¬ Encodes s (pre ++ [q]) := by
  induction syms using List.reverseRecOn with
  | nil => exact absurd (encodes_nil s) h
  | append_singleton syms q ih =>
    by_cases hsyms : Encodes s syms
    · exact ⟨syms, q, [], rfl, hsyms, h⟩
    · obtain ⟨pre, q', post, rfl, hpre, hfirst⟩ := ih hsyms
      exact ⟨pre, q', post ++ [q], by rw [List.append_assoc, List.cons_append], hpre, hfirst⟩

/-- After symbols that encode, a symbol that no longer does raises a data error. -/
theorem raisesDataError_of_not_encodes {s u : State} {pre : List Symbol} {q : Symbol} (hcodes : u.codes = s.codes)
    (hebits : u.ebits.toNat = (codedBits s pre).length) (hpre : Encodes s pre)
    (hfirst : ¬ Encodes s (pre ++ [q])) : ∃ st, RaisesDataError q u st := by
  cases hq : codeAt s q with
  | invalid => exact ⟨_, .inl ⟨(codeAt_congr s u q hcodes).trans hq, rfl⟩⟩
  | code len bits =>
    have hpath : codePath s q = some (pathOf len bits) := by simp only [codePath, hq]
    have hcoded : ∀ q' ∈ pre ++ [q], codePath s q' ≠ none := by
      simpa [or_imp, forall_and, hpath] using hpre.1
    have htotal : (codedBits s (pre ++ [q])).length = u.ebits.toNat + len.toNat := by
      rw [codedBits_append, codedBits_cons hpath, List.length_append, List.length_append, length_pathOf, hebits]
      rfl
    have hover : Config.cntMax < u.ebits.toNat + len.toNat :=
      Nat.lt_of_not_le fun hle => hfirst ⟨hcoded, htotal.trans_le hle⟩
    exact ⟨_, .inr ⟨len, bits, (codeAt_congr s u q hcodes).trans hq, hover, rfl⟩⟩

/-! ### Running a session (R98 to R102) -/

/-- The tokens of codes are codewords. -/
theorem cw_of_codeTokens {s : State} {cws : List EToken} {syms : List Symbol}
    (h : cws.map some = syms.map (codeToken s)) : ∀ c ∈ cws, ∃ len bits, c = .cw len bits := by
  intro c hc
  have htoken : some c ∈ syms.map (codeToken s) := h ▸ List.mem_map_of_mem hc
  obtain ⟨q, -, hq⟩ := List.mem_map.1 htoken
  cases hcode : codeAt s q with
  | invalid => simp [codeToken, hcode] at hq
  | code len bits => exact ⟨len, bits, by simpa [codeToken, hcode] using hq.symm⟩

/-- The session up to the end of symbols that encode: their codes have gone out (R100). -/
theorem execAll_encodeSession_append {s : State} {pre : List Symbol} (post : List Symbol) (hidle : s.estate = .idle)
    (hpre : Encodes s pre) :
    ∃ cws, cws.map some = pre.map (codeToken s) ∧
      execAll (encodeSession (pre ++ post)) s =
        execAll (post.map .encSym ++ [.encEnd]) (pushCodes cws (codedBits s pre).length (effect .encStart s)) := by
  obtain ⟨hcoded, hfits⟩ := hpre
  obtain ⟨cws, htokens, hrun⟩ := execAll_encSyms (s := effect .encStart s) rfl hcoded
    ((Nat.zero_add _).trans_le hfits)
  refine ⟨cws, htokens, ?_⟩
  rw [encodeSession, execAll_cons_of_allowed (i := .encStart) hidle, List.map_append, List.append_assoc,
    execAll_append_of_next _ _ hrun]
  rfl

/-- A FAULTED session discards its symbols, and ENC_END closes it without a token (R100, R101). -/
theorem execAll_faulted (syms : List Symbol) {s : State} (h : s.estate = .faulted) :
    execAll (syms.map .encSym ++ [.encEnd]) s = .next { s with estate := .idle } := by
  induction syms with
  | nil => simp only [List.map_nil, List.nil_append, execAll, exec_encEnd_faulted h]
  | cons q syms ih => simpa only [List.map_cons, List.cons_append, execAll, exec_encSym_faulted q h] using ih

/-- A session whose symbols all encode (R102). -/
theorem execAll_encodeSession_of_encodes {s : State} {syms : List Symbol} (hidle : s.estate = .idle)
    (h : Encodes s syms) :
    ∃ cws, cws.map some = syms.map (codeToken s) ∧
      execAll (encodeSession syms) s = .next
        { endEncode .ok (pushCodes cws (codedBits s syms).length (effect .encStart s)) with estate := .idle } := by
  obtain ⟨cws, htokens, hrun⟩ := execAll_encodeSession_append [] hidle h
  rw [List.append_nil] at hrun
  refine ⟨cws, htokens, hrun.trans ?_⟩
  simp only [List.map_nil, List.nil_append, execAll]
  rw [exec_encEnd_active rfl]

/-- A session with a data error: the codes before it, then the error's own END (R122, R102). -/
theorem execAll_encodeSession_of_not_encodes {s : State} {syms : List Symbol} (hidle : s.estate = .idle)
    (h : ¬ Encodes s syms) :
    ∃ cws q k st, (∀ c ∈ cws, ∃ len bits, c = .cw len bits) ∧
      (st = .missingSymbol ∨ st = .bitcountOverflow) ∧
      execAll (encodeSession syms) s = .next
        { encodeFault st q (pushCodes cws k (effect .encStart s)) with estate := .idle } := by
  obtain ⟨pre, q, post, rfl, hpre, hfirst⟩ := exists_first_not_encodes h
  obtain ⟨cws, htokens, hrun⟩ := execAll_encodeSession_append (q :: post) hidle hpre
  have hebits : (pushCodes cws (codedBits s pre).length (effect .encStart s)).ebits.toNat =
      (codedBits s pre).length := by
    simp only [pushCodes, effect, BitVec.zero_add, hpre.toNat_encodedCount]
  obtain ⟨st, herr⟩ := raisesDataError_of_not_encodes rfl hebits hpre hfirst
  refine ⟨cws, q, (codedBits s pre).length, st, cw_of_codeTokens htokens, herr.status, hrun.trans ?_⟩
  rw [List.map_cons, List.cons_append, execAll, exec_encSym_active q rfl, mapSymbol_of_dataError herr]
  exact execAll_faulted post rfl

/-- Settles O30: either every symbol encodes and ENC_END pushes the END, or the first data error pushes it and the rest
is discarded. -/
theorem encodeSessionPushesItsCodesAndOneEnd : Obligations.EncodeSessionPushesItsCodesAndOneEnd := by
  intro syms s hidle
  by_cases h : Encodes s syms
  · obtain ⟨cws, htokens, hrun⟩ := execAll_encodeSession_of_encodes hidle h
    exact ⟨_, cws, .ok, BitVec.ofNat 28 (codedBits s syms).length, hrun, by simp [pushCodes, effect],
      cw_of_codeTokens htokens, rfl, rfl, rfl, .inl rfl, iff_of_true rfl h,
      fun _ => ⟨htokens, h.toNat_encodedCount, rfl⟩, fun hne => absurd rfl hne⟩
  · obtain ⟨cws, q, k, st, hcws, hst, hrun⟩ := execAll_encodeSession_of_not_encodes hidle h
    have hne : st ≠ .ok := by rcases hst with rfl | rfl <;> decide
    rw [encodeFault_eq] at hrun
    exact ⟨_, cws, st, _, hrun, rfl, hcws, rfl, rfl, rfl, .inr hst, iff_of_false hne h,
      fun hok => absurd hok hne, fun _ => rfl⟩

end Sys2Proof.Machine

end

section
/-! PROOFS. What one bit of a decode session finds, said by the node memory alone; each update of the decoder as an update
of the decoder's part of the state, and what a command does to that part (O17). -/

namespace Sys2Proof.Machine

/-! ### What a bit finds (R106) -/

/-- What a bit finds at the cursor: no node, a leaf, or an INTERNAL node to move to. -/
inductive BitStep where
  | invalid (target : Option NodeAddr)
  | emit (q : Symbol)
  | move (c : NodeAddr)

/-- What a bit finds at the child it selects. -/
def BitStep.atChild (c : NodeAddr) : Node → BitStep
  | .empty => .invalid (some c)
  | .leaf q => .emit q
  | .internal _ _ => .move c

/-- What a bit finds in a node memory (R106). -/
def bitStep (node : NodeAddr → Node) (cur : NodeAddr) (b : Bool) : BitStep :=
  match node cur with
  | .empty => .invalid none
  | .leaf q => .emit q
  | .internal l r => .atChild (selectChild b l r) (node (selectChild b l r))

section

variable {node : NodeAddr → Node} {cur : NodeAddr} {b : Bool}

theorem bitStep_of_empty (h : node cur = .empty) : bitStep node cur b = .invalid none := by
  simp only [bitStep, h]

theorem bitStep_of_leaf {q : Symbol} (h : node cur = .leaf q) : bitStep node cur b = .emit q := by
  simp only [bitStep, h]

theorem bitStep_of_internal {l r : NodeAddr} (h : node cur = .internal l r) :
    bitStep node cur b = .atChild (selectChild b l r) (node (selectChild b l r)) := by
  simp only [bitStep, h]

end

/-- What the walk does with what the `i`-th bit of a session finds (R106). -/
def BitStep.run (b : Bool) (i : Count) : BitStep → State → State
  | .invalid target, s => decodeFault .invalidCode s.cur target b i s
  | .emit q, s => emitSymbol q s
  | .move c, s => moveCursor c s

/-- The walk's step is what the bit finds, acted on (R106). -/
theorem walkCursor_eq (b : Bool) (i : Count) (s : State) :
    walkCursor b i s = (bitStep (nodeAt s) s.cur b).run b i s := by
  unfold walkCursor bitStep
  cases nodeAt s s.cur with
  | empty | leaf => rfl
  | internal l r =>
    dsimp only
    cases nodeAt s (selectChild b l r) <;> rfl

/-! ### The decoder's part of a state under each update (R108) -/

@[simp] theorem decoderView_countBit (s : State) :
    (countBit s).decoderView =
      { s.decoderView with consumed := s.decoderView.consumed + 1#28, remain := s.decoderView.remain - 1#28 } := rfl

@[simp] theorem decoderView_emitSymbol (q : Symbol) (s : State) :
    (emitSymbol q s).decoderView =
      { s.decoderView with
        dout := s.decoderView.dout ++ [.sym q], symcount := s.decoderView.symcount + 1#28
        cur := s.decoderView.root, mid := false } := rfl

@[simp] theorem decoderView_moveCursor (c : NodeAddr) (s : State) :
    (moveCursor c s).decoderView = { s.decoderView with cur := c, mid := true } := rfl

@[simp] theorem decoderView_endDecode (st : Status) (s : State) :
    (endDecode st s).decoderView =
      { s.decoderView with dout := s.decoderView.dout ++ [.done st s.decoderView.symcount] } := rfl

@[simp] theorem decoderView_decodeFault (st : Status) (node : NodeAddr) (target : Option NodeAddr) (b : Bool)
    (i : Count) (s : State) :
    (decodeFault st node target b i s).decoderView =
      { s.decoderView with
        dout := s.decoderView.dout ++ [.done st s.decoderView.symcount], dstate := .faulted } := by
  rw [decodeFault_eq]
  rfl

@[simp] theorem decoderView_commandError (cause : Status) (w : Word) (s : State) :
    (commandError cause w s).decoderView = s.decoderView := by
  rw [commandError_eq]
  rfl

@[simp] theorem decoderView_encodeFault (st : Status) (q : Symbol) (s : State) :
    (encodeFault st q s).decoderView = s.decoderView := by
  rw [encodeFault_eq]
  rfl

theorem decoderView_mapSymbol (q : Symbol) (s : State) : (mapSymbol q s).decoderView = s.decoderView := by
  rcases mapSymbol_cases q s with h | h | ⟨_, _, h⟩ <;> rw [h]
  · exact decoderView_encodeFault _ q s
  · exact decoderView_encodeFault _ q s
  · rfl

theorem decoderView_abortEncode (s : State) : (abortEncode s).decoderView = s.decoderView := by
  unfold abortEncode
  cases s.estate <;> rfl

/-- A command that neither drives the decoder nor writes the tree leaves the decoder's part of the state. -/
theorem decoderView_effect {i : Instr} (hdrives : drivesDecoder i = false) (htree : isTreeCommand i = false)
    (s : State) : (effect i s).decoderView = s.decoderView := by
  cases i with
  | decStart | decBits => cases hdrives
  | wrLeaf | wrInternal | clrNode | clrTree | setRoot => cases htree
  | nop | codeStage | wrCode | clrCode | clrCodes | encStart | setCtrl => rfl
  | encSym q =>
    simp only [effect]
    split
    · exact decoderView_mapSymbol q s
    · rfl
  | encEnd =>
    simp only [effect]
    split <;> rfl
  | clrStatus arg =>
    rw [effect_clrStatus]
    rfl
  | abort arg =>
    have hb : arg.getLsbD 0 = false := hdrives
    simp only [effect, hb]
    exact onBit_keeps State.decoderView _ decoderView_abortEncode _

theorem decoderView_exec_kept {i : Instr} {s t : State} (hdrives : drivesDecoder i = false)
    (htree : isTreeCommand i = false) (h : exec i s = .next t) : t.decoderView = s.decoderView := by
  obtain ⟨-, rfl⟩ | ⟨cause, -, rfl⟩ := exec_result h
  · exact decoderView_effect hdrives htree s
  · exact decoderView_commandError _ _ s

/-! ### Each operation on states that agree in the decoder's part (R108) -/

section

variable {s u : State}

/-- The index of the bit goes to the capture registers alone. -/
theorem BitStep.run_view_congr (step : BitStep) (b : Bool) (i j : Count) (h : s.decoderView = u.decoderView) :
    (step.run b i s).decoderView = (step.run b j u).decoderView := by
  cases step <;> simp [BitStep.run, h]

theorem nodeAt_view_congr (h : s.decoderView = u.decoderView) : nodeAt s = nodeAt u :=
  funext fun a => nodeAt_congr u s a (congrArg DecoderView.nodes h)

theorem walkCursor_view_congr (b : Bool) (i j : Count) (h : s.decoderView = u.decoderView) :
    (walkCursor b i s).decoderView = (walkCursor b j u).decoderView := by
  have hcur : s.cur = u.cur := congrArg DecoderView.cur h
  rw [walkCursor_eq, walkCursor_eq, nodeAt_view_congr h, hcur]
  exact BitStep.run_view_congr _ b i j h

theorem close_view_congr (d : Session) (h : s.decoderView = u.decoderView) :
    State.decoderView { s with dstate := d } = State.decoderView { u with dstate := d } :=
  congrArg (fun v : DecoderView => { v with dstate := d }) h

theorem endOfBits_view_congr (h : s.decoderView = u.decoderView) :
    (endOfBits s).decoderView = (endOfBits u).decoderView := by
  have hd : s.dstate = u.dstate := congrArg DecoderView.dstate h
  have hm : s.mid = u.mid := congrArg DecoderView.mid h
  refine close_view_congr .idle ?_
  rw [hd, hm]
  cases u.dstate with
  | idle | faulted => exact h
  | active => cases u.mid <;> simp [h]

theorem walkBit_view_congr (b : Bool) (h : s.decoderView = u.decoderView) :
    (walkBit s b).decoderView = (walkBit u b).decoderView := by
  have hend {v w : State} (hv : v.decoderView = w.decoderView) :
      (if v.remain = 0#28 then endOfBits v else v).decoderView =
        (if w.remain = 0#28 then endOfBits w else w).decoderView := by
    have hr : v.remain = w.remain := congrArg DecoderView.remain hv
    rw [hr]
    split
    · exact endOfBits_view_congr hv
    · exact hv
  have hd : s.dstate = u.dstate := congrArg DecoderView.dstate h
  have hcount : (countBit s).decoderView = (countBit u).decoderView := by simp [h]
  simp only [walkBit, countBit_dstate, hd]
  refine hend ?_
  cases u.dstate with
  | idle | faulted => exact hcount
  | active => exact walkCursor_view_congr b _ _ hcount

theorem walkBits_view_congr (bs : List Bool) (h : s.decoderView = u.decoderView) :
    (walkBits bs s).decoderView = (walkBits bs u).decoderView := by
  induction bs generalizing s u with
  | nil => exact h
  | cons b bs ih => exact ih (walkBit_view_congr b h)

theorem openDecode_view_congr (n : Count) (h : s.decoderView = u.decoderView) :
    (openDecode n s).decoderView = (openDecode n u).decoderView := by
  simp only [State.decoderView, DecoderView.mk.injEq] at h
  by_cases hn : n = 0#28
  · subst hn
    simp [openDecode_zero, State.decoderView, h]
  · simp [openDecode_pos hn, State.decoderView, h]

theorem abortDecode_view_congr (h : s.decoderView = u.decoderView) :
    (abortDecode s).decoderView = (abortDecode u).decoderView := by
  have hend (v : State) : (abortDecode v).decoderView =
      { (if v.decoderView.dstate = .active then (endDecode .aborted v).decoderView else v.decoderView) with
        dstate := .idle, remain := 0#28 } := by
    rw [abortDecode_eq, ← apply_ite State.decoderView]
    rfl
  simp [hend, h]

/-- What any command's effect does to the decoder's part of the state depends on that part alone. -/
theorem effect_view_congr (i : Instr) (h : s.decoderView = u.decoderView) :
    (effect i s).decoderView = (effect i u).decoderView := by
  cases i with
  | wrLeaf | wrInternal | clrNode | clrTree | setRoot =>
    simp only [State.decoderView, DecoderView.mk.injEq] at h
    simp [effect, State.decoderView, h]
  | decStart n => exact openDecode_view_congr n h
  | decBits k data => exact walkBits_view_congr _ h
  | abort arg =>
    simp only [effect, onBit_keeps State.decoderView _ decoderView_abortEncode]
    cases arg.getLsbD 0 with
    | false => exact h
    | true => exact abortDecode_view_congr h
  | _ => rw [decoderView_effect rfl rfl, decoderView_effect rfl rfl, h]

/-- Whether a command that reads or writes the decoder's part of the state is allowed depends on that part alone. -/
theorem allowed_view_congr {i : Instr} (hi : ¬ (drivesDecoder i = false ∧ isTreeCommand i = false))
    (h : s.decoderView = u.decoderView) : allowed i s ↔ allowed i u := by
  have hd : s.dstate = u.dstate := congrArg DecoderView.dstate h
  have hr : s.remain = u.remain := congrArg DecoderView.remain h
  cases i with
  | wrLeaf | wrInternal | clrNode | clrTree | setRoot | decStart | decBits => simp [allowed, hd, hr]
  | abort arg => exact Iff.rfl
  | _ => exact absurd ⟨rfl, rfl⟩ hi

end

/-- A command leaves the decoder's part as its effect does where it is allowed, and as it is where it is rejected. -/
theorem decoderView_exec {i : Instr} {s t : State} (h : exec i s = .next t) :
    (allowed i s → t.decoderView = (effect i s).decoderView) ∧
      (¬ allowed i s → t.decoderView = s.decoderView) := by
  refine ⟨fun ha => ?_, fun hn => ?_⟩
  · rw [exec_of_allowed ha] at h
    cases h
    rfl
  · obtain ⟨ha, -⟩ | ⟨cause, -, rfl⟩ := exec_result h
    · exact absurd ha hn
    · exact decoderView_commandError _ _ s

/-- Settles O17: a command that has to do with the decoder is allowed in both states or in neither, and its effect is a
congruence; any other leaves the decoder's part, and so does a tree command in an open session, which is rejected. -/
theorem decoderDependsOnlyOnItsOwnState : Obligations.DecoderDependsOnlyOnItsOwnState := by
  refine ⟨fun i s u s' u' h hs hu => ?_, fun i s t hopen hdrives ht => ?_⟩
  · by_cases hi : drivesDecoder i = false ∧ isTreeCommand i = false
    · obtain ⟨hdrives, htree⟩ := hi
      rw [decoderView_exec_kept hdrives htree hs, decoderView_exec_kept hdrives htree hu, h]
    · obtain ⟨hdo, hreject⟩ := decoderView_exec hs
      obtain ⟨hdo', hreject'⟩ := decoderView_exec hu
      have hallowed := allowed_view_congr hi h
      by_cases ha : allowed i s
      · rw [hdo ha, hdo' (hallowed.1 ha), effect_view_congr i h]
      · rw [hreject ha, hreject' (mt hallowed.2 ha), h]
  · cases htree : isTreeCommand i with
    | false => exact decoderView_exec_kept hdrives htree ht
    | true =>
      rw [exec_tree_open htree hopen] at ht
      cases ht
      exact decoderView_commandError _ _ s

end Sys2Proof.Machine

end

section
/-! PROOFS. DEC_START and DEC_BITS one at a time: when they are rejected (O31, O32), a DEC_BITS as its bits (O33) and in a
FAULTED session (O37), and a single bit of an ACTIVE session, before its last one (O34) and at it (O36). -/

namespace Sys2Proof.Machine

/-! ### DEC_START and DEC_BITS by session state (R104, R105) -/

/-- Settles O31: the two branches of DEC_START's effect, and its rejection. -/
theorem decStartOpensASession : Obligations.DecStartOpensASession := by
  refine fun n s => ⟨fun hidle hn => ?_, fun hidle hn => ?_, fun hopen => ?_⟩
  · rw [exec_of_allowed (i := .decStart n) hidle, effect, hn, openDecode_zero]
  · rw [exec_of_allowed (i := .decStart n) hidle, effect, openDecode_pos hn]
  · exact rejects_of_exec (congrArg _ (whenDecoderIdle_open _ s _ hopen))

theorem exec_decBits_idle (k : BitVec 4) (data : BitVec 16) {s : State} (h : s.dstate = .idle) :
    exec (.decBits k data) s = .next (commandError .sequence (encode (.decBits k data)) s) := by
  simp [exec, execDecBits, h]

theorem exec_decBits_open (k : BitVec 4) (data : BitVec 16) {s : State} (h : s.dstate ≠ .idle) :
    exec (.decBits k data) s = .next (deliverBits k data s) := by
  cases hs : s.dstate with
  | idle => exact absurd hs h
  | active | faulted => simp [exec, execDecBits, hs]

/-- Settles O32: the two rejections, each before any bit is walked. -/
theorem decBitsIsRejectedWhole : Obligations.DecBitsIsRejectedWhole := by
  refine fun k data s => ⟨fun hidle => rejects_of_exec (exec_decBits_idle k data hidle), fun hopen hover => ?_⟩
  refine rejects_of_exec ((exec_decBits_open k data hopen).trans (congrArg _ ?_))
  exact if_pos hover

theorem exec_decBits_of_room {k : BitVec 4} (data : BitVec 16) {s : State} (hopen : s.dstate ≠ .idle)
    (hroom : k.toNat + 1 ≤ s.remain.toNat) : exec (.decBits k data) s = .next (walkBits (deliveredBits k data) s) :=
  exec_of_allowed (i := .decBits k data) ⟨hopen, hroom⟩

/-! ### One-bit commands (R76, R108) -/

theorem deliveredBits_bit (b : Bool) : deliveredBits 0#4 (BitVec.ofNat 16 b.toNat) = [b] := by cases b <;> rfl

/-- The operands of `DEC_BIT b`. -/
def bitOperands (b : Bool) : BitVec 4 × BitVec 16 := (0#4, BitVec.ofNat 16 b.toNat)

theorem sessionBits_bitOperands (bs : List Bool) : sessionBits (bs.map bitOperands) = bs := by
  induction bs with
  | nil => rfl
  | cons b bs ih =>
    rw [List.map_cons, sessionBits_cons, ih, bitOperands, deliveredBits_bit, List.singleton_append]

/-- One-bit commands walk over their bits. -/
theorem execAll_decBit (bs : List Bool) {s : State} (hopen : s.dstate ≠ .idle) (hbits : bs.length ≤ s.remain.toNat) :
    execAll (bs.map decBit) s = .next (walkBits bs s) := by
  have hrun := execAll_decBits (bs.map bitOperands) s (fun _ => hopen) (by rwa [sessionBits_bitOperands])
  rw [sessionBits_bitOperands, List.map_map] at hrun
  exact hrun

theorem exec_decBit (b : Bool) {s : State} (hopen : s.dstate ≠ .idle) (hrem : 1 ≤ s.remain.toNat) :
    exec (decBit b) s = .next (walkBit s b) := by
  rw [decBit, exec_decBits_of_room (k := 0#4) _ hopen hrem, deliveredBits_bit, walkBits_cons, walkBits_nil]

/-- Settles O33: both sides are one walk over the bits. -/
theorem decBitsIsItsBitsOneByOne : Obligations.DecBitsIsItsBitsOneByOne := fun k data _ hopen hroom =>
  ⟨_, exec_decBits_of_room data hopen hroom, execAll_decBit _ hopen (by rwa [length_deliveredBits])⟩

/-! ### Bits of a FAULTED session (R106, R107) -/

/-- A FAULTED session counts its bits, and is over when they are. -/
theorem walkBits_faulted (bs : List Bool) {s : State} (h : s.dstate = .faulted) (hpos : 1 ≤ s.remain.toNat)
    (hbits : bs.length ≤ s.remain.toNat) :
    walkBits bs s =
      { countBits bs.length s with dstate := if s.remain.toNat = bs.length then .idle else .faulted } := by
  induction bs generalizing s with
  | nil =>
    have hne : s.remain.toNat ≠ 0 := by omega
    simp [walkBits_nil, countBits, hne, ← h]
  | cons b bs ih =>
    rw [List.length_cons] at hbits ⊢
    have hleft : (s.remain - 1#28).toNat = s.remain.toNat - 1 := toNat_sub_one _ hpos
    rw [walkBits_cons, walkBit_faulted s b h, countBits_succ]
    by_cases hlast : s.remain - 1#28 = 0#28
    · rw [hlast] at hleft
      have hone : 0 = s.remain.toNat - 1 := hleft
      obtain rfl : bs = [] := List.length_eq_zero_iff.1 (by omega)
      have hrem : s.remain.toNat = 1 := by omega
      simp [hlast, walkBits_nil, countBits, hrem]
    · have hmore : (s.remain - 1#28).toNat ≠ 0 := fun hz => hlast (BitVec.eq_of_toNat_eq hz)
      rw [if_neg hlast, ih (s := countBit s) h (by rw [countBit_remain]; omega) (by rw [countBit_remain]; omega)]
      have hiff : (s.remain.toNat - 1 = bs.length) = (s.remain.toNat = bs.length + 1) := propext (by omega)
      simp only [countBit_remain, hleft, hiff]

/-- Settles O37: the walk over a FAULTED session's bits. -/
theorem faultedSessionDiscardsItsBits : Obligations.FaultedSessionDiscardsItsBits := by
  intro k data s hfaulted hroom
  rw [exec_decBits_of_room data (by simp [hfaulted]) hroom,
    walkBits_faulted _ hfaulted (by omega) (by rwa [length_deliveredBits]), length_deliveredBits]
  rfl

/-! ### One bit of an ACTIVE session (R106, R107) -/

theorem BitStep.run_remain (step : BitStep) (b : Bool) (i : Count) (s : State) :
    (step.run b i s).remain = s.remain := by
  cases step with
  | invalid target => simp only [BitStep.run, decodeFault_eq]
  | emit q | move c => rfl

/-- A bit of an ACTIVE session: what it finds, acted on, and then the check for the last bit. -/
theorem walkBit_active_eq (b : Bool) {s : State} (hactive : s.dstate = .active) :
    walkBit s b =
      if s.remain - 1#28 = 0#28 then endOfBits ((bitStep (nodeAt s) s.cur b).run b s.consumed (countBit s))
      else (bitStep (nodeAt s) s.cur b).run b s.consumed (countBit s) := by
  have hwalk : walkCursor b s.consumed (countBit s) = (bitStep (nodeAt s) s.cur b).run b s.consumed (countBit s) :=
    walkCursor_eq b s.consumed (countBit s)
  rw [walkBit_active s b hactive, hwalk, BitStep.run_remain, countBit_remain]

section

variable {b : Bool} {s : State} {l r : NodeAddr}

/-- What a bit finds at the child it selects, in the terms of the claims. -/
theorem bitStep_of_child (hcur : nodeAt s s.cur = .internal l r) {n : Node}
    (hchild : nodeAt s (if b then r else l) = n) :
    bitStep (nodeAt s) s.cur b = .atChild (if b then r else l) n := by
  have hselect : selectChild b l r = if b then r else l := by cases b <;> rfl
  rw [bitStep_of_internal hcur, hselect, hchild]

theorem exec_decBit_not_last (hactive : s.dstate = .active) (hrem : 2 ≤ s.remain.toNat) {step : BitStep}
    (hstep : bitStep (nodeAt s) s.cur b = step) :
    exec (decBit b) s = .next (step.run b s.consumed (countBit s)) := by
  have hmore : s.remain - 1#28 ≠ 0#28 := fun he => by
    have hleft := toNat_sub_one s.remain (by omega)
    rw [he, BitVec.toNat_ofNat] at hleft
    omega
  rw [exec_decBit b (by simp [hactive]) (by omega), walkBit_active_eq b hactive, if_neg hmore, hstep]

theorem exec_decBit_last (hactive : s.dstate = .active) (hrem : s.remain = 1#28) {step : BitStep}
    (hstep : bitStep (nodeAt s) s.cur b = step) :
    exec (decBit b) s = .next (endOfBits (step.run b s.consumed (countBit s))) := by
  rw [exec_decBit b (by simp [hactive]) (by simp [hrem]), walkBit_active_eq b hactive, hrem, hstep]
  rfl

/-- An INVALID_CODE on the last bit is recorded, and the session is over (R107, R121). -/
theorem exec_decBit_last_invalid (hactive : s.dstate = .active) (hrem : s.remain = 1#28) {target : Option NodeAddr}
    (hstep : bitStep (nodeAt s) s.cur b = .invalid target) :
    exec (decBit b) s = .next { s with
      consumed := s.consumed + 1#28, remain := 0#28
      dout := s.dout ++ [.done .invalidCode s.symcount], decDone := true, decErr := true
      deInfo := if s.decErr then s.deInfo else decodeErrorInfo .invalidCode s.cur target b
      deBit := if s.decErr then s.deBit else s.consumed
      dstate := .idle } := by
  have hleft : s.remain - 1#28 = 0#28 := by rw [hrem]; rfl
  rw [exec_decBit_last hactive hrem hstep, BitStep.run, decodeFault_eq, ← hleft]
  rfl

end

/-- Settles O34: what the bit finds in each of the three cases, with no check for the last bit to come. -/
theorem oneBitWalksTheTree : Obligations.OneBitWalksTheTree := by
  refine fun b s hactive hrem => ⟨fun l r q hcur hchild => ?_, fun l r l' r' hcur hchild => ?_, fun q hcur => ?_⟩
  · exact exec_decBit_not_last hactive hrem (bitStep_of_child hcur hchild)
  · exact exec_decBit_not_last hactive hrem (bitStep_of_child hcur hchild)
  · exact exec_decBit_not_last hactive hrem (bitStep_of_leaf hcur)

/-- Settles O36: what the bit finds, then the end of the session; a data error leaves no second one to report. -/
theorem lastBitEndsTheSession : Obligations.LastBitEndsTheSession := by
  refine fun b s hrem => ⟨fun q hactive hcur => ?_, fun hactive hcur => ?_, fun l r hactive hcur hchild => ?_,
    fun hfaulted => ?_⟩
  · have hstep : bitStep (nodeAt s) s.cur b = .emit q := by
      obtain hcur | ⟨l, r, hcur, hchild⟩ := hcur
      · exact bitStep_of_leaf hcur
      · exact bitStep_of_child hcur hchild
    rw [exec_decBit_last hactive hrem hstep, BitStep.run, endOfBits_eq]
    simp [hactive, hrem]
  · exact ⟨_, exec_decBit_last_invalid hactive hrem (bitStep_of_empty hcur), decodeErrorInfo_parts _ _ none b⟩
  · exact ⟨_, exec_decBit_last_invalid hactive hrem (bitStep_of_child hcur hchild),
      decodeErrorInfo_parts _ _ (some _) b⟩
  · rw [exec_decBit b (by simp [hfaulted]) (by simp [hrem]), walkBit_faulted s b hfaulted, hrem]
    simp [countBit, hrem]

end Sys2Proof.Machine

end

section
/-! PROOFS. A decode session's output read off the node memory and the bits alone (R103, R110): its one END (O38), HTC §4.5
on a tree (O39), and a well-formed tree (O40). -/

namespace Sys2Proof.Machine

/-! ### What a session gives, by the node memory and the bits (R106, R107) -/

/-- The symbols and the final status of a session's remaining bits, with the cursor and `mid` as given. -/
def walkOutcome (node : NodeAddr → Node) (root : NodeAddr) : NodeAddr → Bool → List Bool → List Symbol × Status
  | _, mid, [] => ([], if mid then .truncatedStream else .ok)
  | cur, _, b :: bs =>
    match bitStep node cur b with
    | .invalid _ => ([], .invalidCode)
    | .emit q => (q :: (walkOutcome node root root false bs).1, (walkOutcome node root root false bs).2)
    | .move c => walkOutcome node root c true bs

section

variable {node : NodeAddr → Node} {root cur : NodeAddr} {mid b : Bool} {bs : List Bool}

theorem walkOutcome_of_invalid {target : Option NodeAddr} (h : bitStep node cur b = .invalid target) :
    walkOutcome node root cur mid (b :: bs) = ([], .invalidCode) := by
  simp only [walkOutcome, h]

theorem walkOutcome_of_emit {q : Symbol} (h : bitStep node cur b = .emit q) :
    walkOutcome node root cur mid (b :: bs) =
      (q :: (walkOutcome node root root false bs).1, (walkOutcome node root root false bs).2) := by
  simp only [walkOutcome, h]

theorem walkOutcome_of_move {c : NodeAddr} (h : bitStep node cur b = .move c) :
    walkOutcome node root cur mid (b :: bs) = walkOutcome node root c true bs := by
  simp only [walkOutcome, h]

end

/-- A session completes at most one symbol a bit, and ends in one of three statuses (R110, R117). -/
theorem walkOutcome_bounds (node : NodeAddr → Node) (root cur : NodeAddr) (mid : Bool) (bs : List Bool) :
    (walkOutcome node root cur mid bs).1.length ≤ bs.length ∧
      ((walkOutcome node root cur mid bs).2 = .ok ∨ (walkOutcome node root cur mid bs).2 = .invalidCode ∨
        (walkOutcome node root cur mid bs).2 = .truncatedStream) := by
  induction bs generalizing cur mid with
  | nil => cases mid <;> simp [walkOutcome]
  | cons b bs ih =>
    cases h : bitStep node cur b with
    | invalid target => simp [walkOutcome_of_invalid h]
    | emit q =>
      obtain ⟨hlen, hst⟩ := ih root false
      rw [walkOutcome_of_emit h]
      exact ⟨Nat.succ_le_succ hlen, hst⟩
    | move c =>
      obtain ⟨hlen, hst⟩ := ih c true
      rw [walkOutcome_of_move h]
      exact ⟨Nat.le_succ_of_le hlen, hst⟩

/-! ### A session walked to its end (R107) -/

/-- The rest of a session whose remaining bits are these; with none left, the end that follows the last bit. -/
def walkToEnd : List Bool → State → State
  | [], s => endOfBits s
  | b :: bs, s => walkBits (b :: bs) s

/-- After a bit, the check for the last one and the walk over the others. -/
theorem walkToEnd_eq {bs : List Bool} {s : State} (hbits : s.remain.toNat = bs.length) :
    walkBits bs (if s.remain = 0#28 then endOfBits s else s) = walkToEnd bs s := by
  cases bs with
  | nil =>
    rw [if_pos (BitVec.eq_of_toNat_eq hbits)]
    rfl
  | cons b bs =>
    have hmore : s.remain ≠ 0#28 := fun he => by
      rw [he, List.length_cons] at hbits
      cases hbits
    rw [if_neg hmore]
    rfl

/-- The count that is left when one of some bits is counted down. -/
theorem toNat_sub_one_of_succ {n : Count} {m : Nat} (h : n.toNat = m + 1) : (n - 1#28).toNat = m := by
  rw [toNat_sub_one _ (by omega), h, Nat.add_sub_cancel]

theorem walkToEnd_cons {b : Bool} {bs : List Bool} {s : State} (hactive : s.dstate = .active)
    (hbits : s.remain.toNat = (b :: bs).length) :
    walkToEnd (b :: bs) s = walkToEnd bs ((bitStep (nodeAt s) s.cur b).run b s.consumed (countBit s)) := by
  have hrem : ((bitStep (nodeAt s) s.cur b).run b s.consumed (countBit s)).remain = s.remain - 1#28 := by
    rw [BitStep.run_remain, countBit_remain]
  have hend := walkToEnd_eq (hrem ▸ toNat_sub_one_of_succ hbits)
  rw [walkToEnd, walkBits_cons, walkBit_active_eq b hactive, ← hend, hrem]

theorem walkToEnd_faulted {bs : List Bool} {s : State} (hfaulted : s.dstate = .faulted)
    (hbits : s.remain.toNat = bs.length) : walkToEnd bs s = { countBits bs.length s with dstate := .idle } := by
  cases bs with
  | nil => simp [walkToEnd, endOfBits_eq, hfaulted, countBits]
  | cons b bs =>
    have hpos : 1 ≤ s.remain.toNat := by rw [hbits]; exact Nat.succ_pos _
    rw [walkToEnd, walkBits_faulted _ hfaulted hpos hbits.ge, if_pos hbits]

/-- What a session with an outcome leaves, from `k` symbols on: the tokens, the count and the flags (R107, R121). -/
structure SessionEnds (s : State) (k : Count) (r : List Symbol × Status) (t : State) : Prop where
  dout : t.dout = s.dout ++ r.1.map .sym ++ [.done r.2 (k + BitVec.ofNat 28 r.1.length)]
  symcount : t.symcount = k + BitVec.ofNat 28 r.1.length
  done : t.decDone = true
  no_error : r.2 = .ok → t.decErr = s.decErr
  error : r.2 ≠ .ok → t.decErr = true

/-- A symbol in front of the others. -/
theorem SessionEnds.of_emit {s t : State} {q : Symbol} {r : List Symbol × Status}
    (h : SessionEnds (emitSymbol q s) (s.symcount + 1#28) r t) : SessionEnds s s.symcount (q :: r.1, r.2) t where
  dout := by
    rw [h.dout, List.length_cons, ofNat_succ_count r.1.length, ← BitVec.add_assoc]
    simp
  symcount := by rw [h.symcount, List.length_cons, ofNat_succ_count r.1.length, ← BitVec.add_assoc]
  done := h.done
  no_error := h.no_error
  error := h.error

/-- The walk of an ACTIVE session to its end is the outcome of its bits. -/
theorem walkToEnd_outcome (bs : List Bool) {s : State} (hactive : s.dstate = .active)
    (hbits : s.remain.toNat = bs.length) :
    SessionEnds s s.symcount (walkOutcome (nodeAt s) s.root s.cur s.mid bs) (walkToEnd bs s) := by
  induction bs generalizing s with
  | nil =>
    rw [walkToEnd, endOfBits_eq, hactive, walkOutcome]
    cases s.mid with
    | true => rw [decodeFault_eq]; constructor <;> simp
    | false => constructor <;> simp
  | cons b bs ih =>
    have hleft : (s.remain - 1#28).toNat = bs.length := toNat_sub_one_of_succ hbits
    rw [walkToEnd_cons hactive hbits]
    cases h : bitStep (nodeAt s) s.cur b with
    | invalid target =>
      rw [walkOutcome_of_invalid h, BitStep.run, decodeFault_eq, walkToEnd_faulted rfl hleft]
      constructor <;> simp [countBits]
    | emit q =>
      rw [walkOutcome_of_emit h]
      exact { (ih (s := emitSymbol q (countBit s)) hactive hleft).of_emit with }
    | move c =>
      rw [walkOutcome_of_move h]
      exact { ih (s := moveCursor c (countBit s)) hactive hleft with }

/-- The state DEC_START opens its session in (R104). -/
def opened (n : Count) (s : State) : State :=
  { s with remain := n, consumed := 0#28, cur := s.root, mid := false, symcount := 0#28, dstate := .active }

/-- The session of DEC_START, of no bits as well. -/
theorem walkBits_openDecode {n : Count} {bs : List Bool} {s : State} (hidle : s.dstate = .idle)
    (hbits : bs.length = n.toNat) : walkBits bs (openDecode n s) = walkToEnd bs (opened n s) := by
  rw [← walkToEnd_eq (s := opened n s) hbits.symm]
  congr 1
  by_cases hn : n = 0#28
  · subst hn
    rw [openDecode_zero, hidle]
    rfl
  · rw [openDecode_pos hn]
    exact (if_neg hn).symm

section

variable {n : Count} {cs : List (BitVec 4 × BitVec 16)} {s : State}

/-- A whole decode session gives the outcome of its bits from the root (R103, R108). -/
theorem decodeSession_outcome (hidle : s.dstate = .idle) (hbits : (sessionBits cs).length = n.toNat) :
    ∃ t, execAll (decodeSession n cs) s = .next t ∧
      SessionEnds s 0#28 (walkOutcome (nodeAt s) s.root s.root false (sessionBits cs)) t := by
  refine ⟨_, execAll_decodeSession hidle hbits, ?_⟩
  rw [walkBits_openDecode hidle hbits]
  exact { walkToEnd_outcome (sessionBits cs) (s := opened n s) rfl hbits.symm with }

/-- A whole decode session ends IDLE, its bits counted (R103, R107). -/
theorem decodeSession_counts {t : State} (hidle : s.dstate = .idle) (hbits : (sessionBits cs).length = n.toNat)
    (ht : execAll (decodeSession n cs) s = .next t) : t.dstate = .idle ∧ t.remain = 0#28 ∧ t.consumed = n := by
  rw [execAll_decodeSession hidle hbits] at ht
  cases ht
  by_cases hn : n = 0#28
  · subst hn
    rw [List.length_eq_zero_iff.1 hbits, walkBits_nil, openDecode_zero]
    exact ⟨hidle, rfl, rfl⟩
  · have hpos : 1 ≤ n.toNat := Nat.one_le_iff_ne_zero.2 fun hz => hn (BitVec.eq_of_toNat_eq hz)
    rw [openDecode_pos hn]
    obtain ⟨hrem, hconsumed, -, -, hend⟩ :=
      walkBits_counts (sessionBits cs) (opened n s) (by simp [opened]) hbits.le hpos
    refine ⟨hend.2 hbits.symm, BitVec.eq_of_toNat_eq ?_, ?_⟩
    · exact hrem.trans (by rw [hbits]; exact Nat.sub_self _)
    · exact hconsumed.trans (by rw [hbits]; simp [opened])

end

/-- Settles O38: the outcome of the bits, whose symbols are no more than the bits. -/
theorem decodeSessionEndsWithOneEnd : Obligations.DecodeSessionEndsWithOneEnd := by
  intro n cs s hidle hbits
  obtain ⟨t, ht, hends⟩ := decodeSession_outcome hidle hbits
  obtain ⟨hstate, hrem, hconsumed⟩ := decodeSession_counts hidle hbits ht
  obtain ⟨hlen, hst⟩ := walkOutcome_bounds (nodeAt s) s.root s.root false (sessionBits cs)
  rw [hbits] at hlen
  have hcount : t.symcount.toNat = (walkOutcome (nodeAt s) s.root s.root false (sessionBits cs)).1.length := by
    have hmax := n.isLt
    rw [hends.symcount, BitVec.zero_add, BitVec.toNat_ofNat, Nat.mod_eq_of_lt (by omega)]
  exact ⟨t, _, _, ht, by simpa using hends.dout, hlen, hstate, hrem, hconsumed, hcount, hends.done, hst,
    hends.no_error, hends.error⟩

/-! ### On a tree the node memory holds (R109) -/

/-- What a bit finds at an INTERNAL node of a tree in the memory. -/
theorem bitStep_of_represents {s : State} {cur : NodeAddr} {left right : HuffTree}
    (h : Represents s cur (.node left right)) (b : Bool) :
    ∃ c, Represents s c (selectSubtree b left right) ∧ bitStep (nodeAt s) cur b = .atChild c (nodeAt s c) := by
  obtain ⟨l, r, hcur, hleft, hright⟩ := h
  refine ⟨selectChild b l r, ?_, bitStep_of_internal hcur⟩
  cases b
  · exact hleft
  · exact hright

theorem sizeOf_selectSubtree (b : Bool) (left right : HuffTree) :
    sizeOf (selectSubtree b left right) < sizeOf (HuffTree.node left right) := by
  cases b <;> (simp only [selectSubtree, HuffTree.node.sizeOf_spec]; omega)

/-- The walk from a subtree of the tree is HTC §4.5 from there. The cursor's subtree is smaller than the tree
mid-traversal, so that it is not the tree itself. -/
theorem walkOutcome_represents {s : State} {tree : HuffTree} (hroot : Represents s s.root tree) (bs : List Bool)
    {cur : NodeAddr} {cursor : HuffTree} {mid : Bool} (hcur : Represents s cur cursor)
    (hmid : mid = false ∧ cursor = tree ∨ mid = true ∧ sizeOf cursor < sizeOf tree) :
    walkOutcome (nodeAt s) s.root cur mid bs =
      ((htcDecode tree cursor bs).1, if (htcDecode tree cursor bs).2 then .truncatedStream else .ok) := by
  induction bs generalizing cur cursor mid with
  | nil =>
    have hne : (cursor != tree) = mid := by
      obtain ⟨rfl, rfl⟩ | ⟨rfl, hlt⟩ := hmid
      · exact bne_self_eq_false cursor
      · exact bne_iff_ne.2 fun he => by simp [he] at hlt
    rw [walkOutcome, htcDecode, hne]
  | cons b bs ih =>
    have hnext := ih hroot (.inl ⟨rfl, rfl⟩)
    cases cursor with
    | leaf q =>
      have hleaf : nodeAt s cur = .leaf q := hcur
      rw [walkOutcome_of_emit (bitStep_of_leaf hleaf), hnext, htcDecode]
    | node left right =>
      obtain ⟨c, hchild, hstep⟩ := bitStep_of_represents hcur b
      have hsize := sizeOf_selectSubtree b left right
      rw [htcDecode]
      cases hsub : selectSubtree b left right with
      | leaf q =>
        rw [hsub] at hchild
        have hleaf : nodeAt s c = .leaf q := hchild
        rw [hleaf] at hstep
        rw [walkOutcome_of_emit hstep, hnext]
      | node left' right' =>
        rw [hsub] at hchild hsize
        have ⟨l, r, hc, _⟩ := hchild
        rw [hc] at hstep
        rw [walkOutcome_of_move hstep]
        refine ih hchild (.inr ⟨rfl, ?_⟩)
        obtain ⟨-, rfl⟩ | ⟨-, hlt⟩ := hmid
        · exact hsize
        · exact hsize.trans hlt

/-- Settles O39: the outcome of the bits from the root is the reference's. -/
theorem decoderAgreesWithTheReference : Obligations.DecoderAgreesWithTheReference := by
  intro tree n cs s hidle htree hbits
  obtain ⟨t, ht, hends⟩ := decodeSession_outcome hidle hbits
  rw [walkOutcome_represents htree _ htree (.inl ⟨rfl, rfl⟩)] at hends
  exact ⟨t, ht, by simpa using hends.dout⟩

/-! ### On a well-formed tree (R86, R109) -/

theorem Reach.child {s : State} {a l r : NodeAddr} (h : Reach s a) (ha : nodeAt s a = .internal l r) (b : Bool) :
    childOf s a b = some (selectChild b l r) ∧ Reach s (selectChild b l r) := by
  have hchild : childOf s a b = some (selectChild b l r) := by simp only [childOf, ha]
  obtain ⟨p, hp⟩ := h
  refine ⟨hchild, p ++ [b], ?_⟩
  rw [follow_append, hp]
  simp [follow, hchild]

/-- From a reachable node of a well-formed tree no bit finds an EMPTY entry. -/
theorem TreeWellFormed.walkOutcome_ne {s : State} (h : TreeWellFormed s) (bs : List Bool) {cur : NodeAddr}
    {mid : Bool} (hreach : Reach s cur) (hnode : nodeAt s cur ≠ .empty) :
    (walkOutcome (nodeAt s) s.root cur mid bs).2 ≠ .invalidCode := by
  induction bs generalizing cur mid with
  | nil => cases mid <;> simp [walkOutcome]
  | cons b bs ih =>
    have hnext : (walkOutcome (nodeAt s) s.root s.root false bs).2 ≠ .invalidCode := ih ⟨[], rfl⟩ h.root_present
    cases hcur : nodeAt s cur with
    | empty => exact absurd hcur hnode
    | leaf q =>
      rw [walkOutcome_of_emit (bitStep_of_leaf hcur)]
      exact hnext
    | internal l r =>
      obtain ⟨hchild, hreach'⟩ := hreach.child hcur b
      have hpresent := h.children_present cur b _ hreach hchild
      have hstep := bitStep_of_internal (b := b) hcur
      cases hc : nodeAt s (selectChild b l r) with
      | empty => exact absurd hc hpresent
      | leaf q =>
        rw [hc] at hstep
        rw [walkOutcome_of_emit hstep]
        exact hnext
      | internal l' r' =>
        rw [hc] at hstep
        rw [walkOutcome_of_move hstep]
        exact ih hreach' hpresent

/-- Settles O40: the outcome of the bits from the root, which is reachable and present. -/
theorem wellFormedTreesNeverGiveInvalidCode : Obligations.WellFormedTreesNeverGiveInvalidCode := by
  intro n cs s t hidle hwf hbits ht
  obtain ⟨t', ht', hends⟩ := decodeSession_outcome hidle hbits
  obtain rfl : t = t' := Host.Outcome.next.inj (ht.symm.trans ht')
  exact ⟨_, _, _, hends.dout, hwf.walkOutcome_ne _ ⟨[], rfl⟩ hwf.root_present⟩

end Sys2Proof.Machine

end

section
/-! PROOFS. The system commands field by field: NOP and SET_CTRL (O42), CLR_STATUS (O43), ABORT (O44). -/

namespace Sys2Proof.Machine

/-- All that the ABORT of a decode session does under its bit of `ARG` (R114). -/
theorem onBit_abortDecode (b : Bool) (s : State) :
    onBit b abortDecode s =
      { s with
        dout := if b && s.dstate == .active then s.dout ++ [.done .aborted s.symcount] else s.dout
        decDone := s.decDone || (b && s.dstate == .active)
        dstate := if b then .idle else s.dstate
        remain := if b then 0#28 else s.remain } := by
  cases b with
  | false => simp [onBit]
  | true =>
    rw [onBit, abortDecode_eq]
    cases hs : s.dstate <;> simp [closed, endDecode, pushDout]

/-- All that the ABORT of an encode session does under its bit of `ARG` (R114). -/
theorem onBit_abortEncode (b : Bool) (s : State) :
    onBit b abortEncode s =
      { s with
        eout := if b && s.estate == .active then s.eout ++ [.done .aborted s.ebits] else s.eout
        encDone := s.encDone || (b && s.estate == .active)
        estate := if b then .idle else s.estate } := by
  cases b with
  | false => simp [onBit]
  | true =>
    rw [onBit, abortEncode]
    cases hs : s.estate <;> simp [endEncode, pushEout]

/-- Settles O42: neither command is ever rejected, and its effect is the state given. -/
theorem nopAndSetCtrl : Obligations.NopAndSetCtrl := fun _ =>
  ⟨exec_of_allowed (i := .nop) trivial, fun arg => exec_of_allowed (i := .setCtrl arg) trivial⟩

/-- Settles O43: CLR_STATUS is never rejected, and `effect_clrStatus` gives its effect. -/
theorem clrStatusClearsTheSelectedBits : Obligations.ClrStatusClearsTheSelectedBits := by
  intro arg s
  rw [exec_of_allowed (i := .clrStatus arg) trivial, effect_clrStatus]
  simp only [Bool.and_comm]

/-- Settles O44: ABORT is never rejected; its two halves write different fields, and the encoder's reads none that the
decoder's wrote. -/
theorem abortCancelsTheSelectedSessions : Obligations.AbortCancelsTheSelectedSessions := by
  intro arg s
  rw [exec_of_allowed (i := .abort arg) trivial, effect, onBit_abortDecode, onBit_abortEncode]

end Sys2Proof.Machine

end

section
/-! PROOFS. Errors (60_exceptions.md): every step answers a next state (O12), what a decode data error records (O35),
the interrupt line (O45), and the numbers of the status codes where the outside reads them (O56). -/

namespace Sys2Proof.Machine

/-! ### No error stops the block (R128) -/

/-- Every command answers a next state: those that a session state selects a case of do so in each of the three. -/
theorem exec_answers (i : Instr) (s : State) : ∃ t, exec i s = .next t := by
  cases i with
  | encSym q =>
    cases hs : s.estate with
    | idle => exact ⟨_, exec_encSym_idle q hs⟩
    | active => exact ⟨_, exec_encSym_active q hs⟩
    | faulted => exact ⟨_, exec_encSym_faulted q hs⟩
  | encEnd =>
    cases hs : s.estate with
    | idle => exact ⟨_, exec_encEnd_idle hs⟩
    | active => exact ⟨_, exec_encEnd_active hs⟩
    | faulted => exact ⟨_, exec_encEnd_faulted hs⟩
  | decBits k data =>
    by_cases hidle : s.dstate = .idle
    · exact ⟨_, exec_decBits_idle k data hidle⟩
    · exact ⟨_, exec_decBits_open k data hidle⟩
  | _ => exact ⟨_, rfl⟩

theorem executorStep_answers (s : State) : ∃ t, executorStep s = .next t := by
  obtain h | ⟨_, rest, i, -, -, -, h⟩ | ⟨_, _, _, -, -, -, h⟩ := executorStep_cases s
  · exact ⟨_, h⟩
  · rw [h]
    exact exec_answers i { s with port := rest }
  · exact ⟨_, h⟩

/-- Settles O12: only the executor's turn runs a command, and every command answers a next state. -/
theorem everyStepAnswersANextState : Obligations.EveryStepAnswersANextState := by
  intro s
  obtain ⟨ts, -, h⟩ | ⟨_, _, -, h⟩ | ⟨_, -, h⟩ | ⟨_, -, h⟩ | ⟨_, -, h⟩ := step_cases s
  · rw [h]
    exact executorStep_answers { s with turns := ts }
  · exact ⟨_, h⟩
  · exact ⟨_, h⟩
  · exact ⟨_, h⟩
  · exact ⟨_, h⟩

/-! ### Decode data errors (R121) -/

section

variable {b : Bool} {s : State}

/-- An INVALID_CODE before the last bit is recorded, and the session is FAULTED (R106, R121). -/
theorem exec_decBit_not_last_invalid (hactive : s.dstate = .active) (hrem : 2 ≤ s.remain.toNat)
    {target : Option NodeAddr} (hstep : bitStep (nodeAt s) s.cur b = .invalid target) :
    exec (decBit b) s = .next { s with
      consumed := s.consumed + 1#28, remain := s.remain - 1#28
      dout := s.dout ++ [.done .invalidCode s.symcount], decDone := true, decErr := true
      deInfo := if s.decErr then s.deInfo else decodeErrorInfo .invalidCode s.cur target b
      deBit := if s.decErr then s.deBit else s.consumed
      dstate := .faulted } := by
  rw [exec_decBit_not_last hactive hrem hstep, BitStep.run, decodeFault_eq]
  rfl

/-- A last bit that moves the cursor leaves it mid-traversal: TRUNCATED_STREAM, at the count of all the bits (R107). -/
theorem exec_decBit_last_truncated (hactive : s.dstate = .active) (hrem : s.remain = 1#28) {c : NodeAddr}
    (hstep : bitStep (nodeAt s) s.cur b = .move c) :
    exec (decBit b) s = .next { s with
      consumed := s.consumed + 1#28, remain := 0#28, cur := c, mid := true
      dout := s.dout ++ [.done .truncatedStream s.symcount], decDone := true, decErr := true
      deInfo := if s.decErr then s.deInfo else decodeErrorInfo .truncatedStream c none false
      deBit := if s.decErr then s.deBit else s.consumed + 1#28
      dstate := .idle } := by
  rw [exec_decBit_last hactive hrem hstep, BitStep.run, endOfBits_eq]
  simp [hactive, hrem, moveCursor, countBit, decodeFault_eq]

end

/-- Settles O35: what the bit finds in each case, and the parts of `de_info`. -/
theorem decodeDataErrorsAreRecordedAndEndTheOutput : Obligations.DecodeDataErrorsAreRecordedAndEndTheOutput := by
  refine fun b s hactive => ⟨fun hrem hcur => ?_, fun l r hrem hcur hchild => ?_, fun l r l' r' hrem hcur hchild => ?_⟩
  · exact ⟨_, exec_decBit_not_last_invalid hactive hrem (bitStep_of_empty hcur), decodeErrorInfo_parts _ _ none b⟩
  · exact ⟨_, exec_decBit_not_last_invalid hactive hrem (bitStep_of_child hcur hchild),
      decodeErrorInfo_parts _ _ (some _) b⟩
  · exact ⟨_, exec_decBit_last_truncated hactive hrem (bitStep_of_child hcur hchild),
      decodeErrorInfo_parts _ _ none false⟩

/-! ### The interrupt line (R129) -/

theorem irq_iff (s : State) :
    irq s = true ↔ (s.ieDone = true ∧ (s.decDone = true ∨ s.encDone = true)) ∨
      (s.ieErr = true ∧ (s.cmdErr = true ∨ s.decErr = true ∨ s.encErr = true)) := by
  simp only [irq, Bool.or_eq_true, Bool.and_eq_true, or_assoc]

/-- Settles O45: the output is `irq`, and so is bit 9 of STATUS. -/
theorem irqIsTheEnabledStickyBits : Obligations.IrqIsTheEnabledStickyBits := by
  intro s
  obtain ⟨-, -, -, -, -, hirq, -⟩ := getLsbD_statusWord false s
  exact ⟨irq_iff s, hirq⟩

/-! ### Status codes as the outside reads them (R117) -/

theorem decode_error_of_not_legal {w : Word} (h : legal w = false) : ∃ r, decode w = .error r := by
  cases hd : decode w with
  | ok i => simp [(legal_iff w).2 ⟨i, hd⟩] at h
  | error r => exact ⟨r, rfl⟩

theorem exec_decBits_overrun {k : BitVec 4} (data : BitVec 16) {s : State} (hopen : s.dstate ≠ .idle)
    (hover : s.remain.toNat < k.toNat + 1) :
    exec (.decBits k data) s = .next (commandError .overrun (encode (.decBits k data)) s) :=
  (exec_decBits_open k data hopen).trans (congrArg _ (if_pos hover))

/-- `CMD_ERR_CAUSE` after a first rejection (R38, R120). -/
theorem readRegister_cause_of_commandError (cause : Status) (w : Word) {s : State} (h : s.cmdErr = false) :
    readRegister (commandError cause w s) 0x9#4 = put 0 cause.code := by
  have hread (t : State) : readRegister t 0x9#4 = put 0 t.ceCause := rfl
  rw [hread, commandError_eq]
  simp [h]

/-- The status in `ENC_ERR_INFO` after a first encode data error (R42, R122). -/
theorem readRegister_status_of_encodeFault (st : Status) (q : Symbol) {s : State} (h : s.encErr = false) :
    (readRegister (encodeFault st q s) 0xD#4).extractLsb' 0 4 = st.code := by
  have hread (t : State) : readRegister t 0xD#4 = put 0 t.eeInfo := rfl
  rw [hread, extract_put_within 0 0 4 _ (by omega) (by omega) (by omega), encodeFault_eq]
  simpa [h] using (encodeErrorInfo_parts st q).1

/-- The status in `ENC_ERR_INFO` after an ENC_SYM that raises the first encode data error. -/
theorem exec_encSym_shows_status {q : Symbol} {s : State} {st : Status} (hactive : s.estate = .active)
    (hclear : s.encErr = false) (herr : RaisesDataError q s st) :
    ∃ t, exec (.encSym q) s = .next t ∧ (readRegister t 0xD#4).extractLsb' 0 4 = st.code := by
  refine ⟨_, ?_, readRegister_status_of_encodeFault st q hclear⟩
  rw [exec_encSym_active q hactive, mapSymbol_of_dataError herr]

theorem exec_abort_pushes_end {arg : BitVec 16} {s : State} (hactive : s.dstate = .active)
    (harg : arg.getLsbD 0 = true) :
    ∃ t, exec (.abort arg) s = .next t ∧ t.dout = s.dout ++ [.done .aborted s.symcount] := by
  refine ⟨_, abortCancelsTheSelectedSessions arg s, ?_⟩
  rw [harg, hactive]
  rfl

theorem status_code_mem (st : Status) : st.code ∉ [5#4, 6#4, 11#4, 12#4, 13#4, 14#4, 15#4] := by
  cases st <;> decide

/-- Settles O56: each command raises its error, whose capture or END token shows the code. -/
theorem statusCodesAreThoseOfTheTable : Obligations.StatusCodesAreThoseOfTheTable := by
  refine ⟨⟨rfl, rfl, rfl, rfl, rfl, rfl, rfl, rfl, rfl, status_code_mem⟩, fun w s hlegal hclear => ?_,
    fun q s hidle hclear => ?_, fun k data s hopen hover hclear => ?_, fun q s hactive hclear hcode => ?_,
    fun q s len bits hactive hclear hcode hover => ?_, fun arg s hactive harg => ?_⟩
  · obtain ⟨r, hr⟩ := decode_error_of_not_legal hlegal
    exact ⟨_, executeWord_illegal w r s hr, readRegister_cause_of_commandError .illegal w hclear⟩
  · exact ⟨_, exec_encSym_idle q hidle, readRegister_cause_of_commandError .sequence _ hclear⟩
  · exact ⟨_, exec_decBits_overrun data hopen hover, readRegister_cause_of_commandError .overrun _ hclear⟩
  · exact exec_encSym_shows_status hactive hclear (.inl ⟨hcode, rfl⟩)
  · exact exec_encSym_shows_status hactive hclear (.inr ⟨len, bits, hcode, hover, rfl⟩)
  · obtain ⟨t, hexec, hdout⟩ := exec_abort_pushes_end hactive harg
    exact ⟨t, _, hexec, hdout, rfl, (extract_doneData .aborted s.symcount).1⟩

end Sys2Proof.Machine

end

section
/-! PROOFS. Reset and hazards (70_reset_and_hazards.md): the reset event (O11), and what a register read in a BUSY
window still defines (O50). -/

namespace Sys2Proof.Machine

/-! ### The reset event (R136) -/

theorem step_reset {s : State} {ts : List Turn} (h : s.turns = .reset :: ts) :
    step s = .next (resetBlock { s with turns := ts }) := step_of_turn s _ ts h

theorem nodeAt_resetBlock (s : State) (a : NodeAddr) : nodeAt (resetBlock s) a = .empty := rfl

theorem codeAt_resetBlock (s : State) (q : Symbol) : codeAt (resetBlock s) q = .invalid := rfl

/-- Settles O11: the turn answers `resetBlock`, whose memories read as empty and whose fields `resetBlock_eq` lists. -/
theorem resetEventRestoresEveryResetValue : Obligations.ResetEventRestoresEveryResetValue := by
  intro s ts hts
  refine ⟨_, step_reset hts, nodeAt_resetBlock _, codeAt_resetBlock _, ?_⟩
  simp [resetBlock_eq, cmdReady, outputs]

/-! ### Reads in a BUSY window (R140) -/

/-- Settles O50: no draw enters the two constants, and STATUS has bit 10 put over its draw, as `StatusRegisterFields`
says. -/
theorem busyWindowKeepsIdParamAndBusy : Obligations.BusyWindowKeepsIdParamAndBusy := by
  intro k s
  obtain ⟨-, -, -, -, -, -, -, -, -, -, hbusy, -⟩ := statusRegisterFields s
  exact ⟨rfl, rfl, hbusy k⟩

end Sys2Proof.Machine

end
